-- ==== Sys2Proof/Word.lean ====
section
/-! DEFINITION. The plain words of the block: bytes, slot indices, packets (spec/00_scope.md R9). -/

namespace Sys2Proof

/-- A byte of a packet or of a stored assignment (R9: "A byte is 8 bits"). -/
abbrev Byte := BitVec 8

/-- A voice slot index: the 16-bit field of a generator packet (spec/20_memory.md R28, R29). -/
abbrev Slot := BitVec 16

/-- A packet: the byte string `pkt[0 .. len-1]`; its length is `len` (R9, spec/30_encoding.md R40). -/
abbrev Packet := List Byte

end Sys2Proof
end

