-- ==== Sys2Proof/Config.lean ====
section
/-! DEFINITION. The configuration record `CFG` of spec/00_scope.md R7: every numeric parameter the source leaves
symbolic, and the two ROM tables of spec/10_state.md R22. The reference values stand in Machine/Reference.lean and the
constraints of R8 in Machine/Validity.lean. -/

namespace Sys2Proof

/-- `CFG` (R7). Widths and counts are natural numbers; the tables are data (R22, R78, R96). -/
structure Cfg where
  /-- `N_GENERATORS`, the number of voice slots. -/
  nGenerators : Nat
  /-- `SAMPLE_RATE` in Hz, used only by `frequency_to_wavelength`. -/
  sampleRate : Nat
  /-- `SAMPLE_W`, width of a voice sample. -/
  sampleW : Nat
  /-- `SAMPLE_MAX`, largest magnitude of a voice sample. -/
  sampleMax : Nat
  /-- `FREQ_SHIFT`, fractional bits of a frequency. -/
  freqShift : Nat
  /-- `REF_NOTE`, note index of the reference note. -/
  refNote : Nat
  /-- `REF_FREQ_HZ`, frequency of the reference note. -/
  refFreqHz : Nat
  /-- `NOTE_FREQ[0..127]`, fixed-point note frequencies. -/
  noteFreq : List Nat
  /-- `LIFE_SCALE`, also the per-tick increment `LIFE_INC` (R84). -/
  lifeScale : Nat
  /-- `BEND_SHIFT`. -/
  bendShift : Nat
  /-- `BEND_LINEAR_OFFSET`. -/
  bendLinearOffset : Nat
  /-- `BEND_LINEAR_SCALE`. -/
  bendLinearScale : Nat
  /-- `BEND_SEMITONES`, used only by the formula of R80 for the scale. -/
  bendSemitones : Nat
  /-- `ENV_FULL`, envelope full scale. -/
  envFull : Nat
  /-- `LEVEL_W`, width of an envelope level. -/
  levelW : Nat
  /-- `DUR_W`, width of a duration. -/
  durW : Nat
  /-- `VELOCITY_MAX`. -/
  velocityMax : Nat
  /-- `LIFE_W`, width of the elapsed-life register. -/
  lifeW : Nat
  /-- `PHASE_W`, width of the phase accumulator. -/
  phaseW : Nat
  /-- `SINE_LUT_SIZE`. -/
  sineLutSize : Nat
  /-- `SINE_LUT[0 .. SINE_LUT_SIZE-1]`. -/
  sineLut : List Int
  /-- `ACC_W`, width of the mixer accumulator. -/
  accW : Nat
  /-- `HEADROOM_SHIFT`. -/
  headroomShift : Nat
  /-- `OUT_W`, width of the output sample. -/
  outW : Nat
deriving DecidableEq, Repr

end Sys2Proof
end

