-- ==== Sys2Proof/Machine/Reference.lean ====
section
/-! DEFINITION. The reference configuration of spec/00_scope.md R7 with the ROM tables of spec/42_frequency_and_phase.md
R78 and spec/43_waveforms.md R96, carried as data. The values are the spec's own decisions (D2 to D21), not the source's. -/

namespace Sys2Proof

/-- `NOTE_FREQ` of R78, eight notes a row. -/
def noteFreqTable : List Nat :=
  [3951, 4186, 4435, 4699, 4978, 5274, 5588, 5920] ++
  [6272, 6645, 7040, 7459, 7902, 8372, 8870, 9397] ++
  [9956, 10548, 11175, 11840, 12544, 13290, 14080, 14917] ++
  [15804, 16744, 17740, 18795, 19912, 21096, 22351, 23680] ++
  [25088, 26580, 28160, 29834, 31609, 33488, 35479, 37589] ++
  [39824, 42192, 44701, 47359, 50175, 53159, 56320, 59669] ++
  [63217, 66976, 70959, 75178, 79649, 84385, 89402, 94719] ++
  [100351, 106318, 112640, 119338, 126434, 133952, 141918, 150356] ++
  [159297, 168769, 178805, 189437, 200702, 212636, 225280, 238676] ++
  [252868, 267905, 283835, 300713, 318594, 337539, 357610, 378874] ++
  [401403, 425272, 450560, 477352, 505737, 535809, 567670, 601425] ++
  [637188, 675077, 715219, 757749, 802807, 850544, 901120, 954703] ++
  [1011473, 1071618, 1135340, 1202851, 1274376, 1350154, 1430439, 1515497] ++
  [1605613, 1701088, 1802240, 1909407, 2022946, 2143237, 2270680, 2405702] ++
  [2548752, 2700309, 2860878, 3030994, 3211227, 3402176, 3604480, 3818814] ++
  [4045892, 4286473, 4541360, 4811404, 5097505, 5400618, 5721755, 6061989]

/-- The first half of `SINE_LUT`, R96, eight entries a row. -/
def sineHalfTable : List Int :=
  [0, 804, 1608, 2410, 3212, 4011, 4808, 5602] ++
  [6393, 7179, 7962, 8739, 9512, 10278, 11039, 11793] ++
  [12539, 13279, 14010, 14732, 15446, 16151, 16846, 17530] ++
  [18204, 18868, 19519, 20159, 20787, 21403, 22005, 22594] ++
  [23170, 23731, 24279, 24811, 25329, 25832, 26319, 26790] ++
  [27245, 27683, 28105, 28510, 28898, 29268, 29621, 29956] ++
  [30273, 30571, 30852, 31113, 31356, 31580, 31785, 31971] ++
  [32137, 32285, 32412, 32521, 32609, 32678, 32728, 32757] ++
  [32767, 32757, 32728, 32678, 32609, 32521, 32412, 32285] ++
  [32137, 31971, 31785, 31580, 31356, 31113, 30852, 30571] ++
  [30273, 29956, 29621, 29268, 28898, 28510, 28105, 27683] ++
  [27245, 26790, 26319, 25832, 25329, 24811, 24279, 23731] ++
  [23170, 22594, 22005, 21403, 20787, 20159, 19519, 18868] ++
  [18204, 17530, 16846, 16151, 15446, 14732, 14010, 13279] ++
  [12539, 11793, 11039, 10278, 9512, 8739, 7962, 7179] ++
  [6393, 5602, 4808, 4011, 3212, 2410, 1608, 804]

/-- `SINE_LUT` of R96: the second half is the negation of the first. -/
def sineTable : List Int := sineHalfTable ++ sineHalfTable.map (fun x => -x)

/-- The reference configuration (R7, column "reference"). -/
def Cfg.reference : Cfg where
  nGenerators := 16
  sampleRate := 44100
  sampleW := 16
  sampleMax := 32767
  freqShift := 8
  refNote := 58
  refFreqHz := 440
  noteFreq := noteFreqTable
  lifeScale := 1
  bendShift := 16
  bendLinearOffset := 65536
  bendLinearScale := 63
  bendSemitones := 2
  envFull := 255
  levelW := 8
  durW := 32
  velocityMax := 127
  lifeW := 32
  phaseW := 32
  sineLutSize := 256
  sineLut := sineTable
  accW := 32
  headroomShift := 4
  outW := 32

end Sys2Proof
end

