-- ==== Sys2Proof/Syntax.lean ====
section
/-! DEFINITION. The operations of the block as syntax: one constructor of `Instr` per row of spec/opcode_table.json, and
the two packet records they carry (spec/30_encoding.md R41 to R45). -/

namespace Sys2Proof

/-- The Envelope record as it travels: 13 bytes (R43). -/
structure EnvRecord where
  attack : BitVec 32
  decay : BitVec 32
  sustain : Byte
  release : BitVec 32
deriving DecidableEq, Repr

/-- The GlobalState record as it travels: 30 bytes (R44). -/
structure GlobalRecord where
  masterVolume : Byte
  env : EnvRecord
  /-- Sixteen two's-complement bytes, one per MIDI channel. -/
  pitchBend : Vector Byte 16
deriving DecidableEq, Repr

/-- The VoiceAssignment record: five bytes, stored as received (R45, spec/10_state.md R11). -/
structure Assignment where
  enabled : Byte
  instrument : Byte
  noteIndex : Byte
  channelIndex : Byte
  velocity : Byte
deriving DecidableEq, Repr

/-- What the instrument byte selects (R48). -/
inductive Waveform where
  | square
  | triangle
  | sawtooth
  | sine
  /-- Bytes 4..255: no waveform. -/
  | silent
deriving DecidableEq, Repr

/-- The operations: one constructor per row of spec/opcode_table.json (R54). The steps of `TICK` name the slot they act on. -/
inductive Instr where
  /-- `RESET` (R134). -/
  | reset
  /-- `TICK` (R113). -/
  | tick
  /-- `PKT_GLOBAL` (R71). -/
  | pktGlobal (r : GlobalRecord)
  /-- `PKT_GENERATOR` (R72); the reset flag is the byte as sent. -/
  | pktGenerator (slot : Slot) (resetFlag : Byte) (a : Assignment)
  /-- `PKT_IGNORED` (R73). -/
  | pktIgnored
  /-- `WAVE_SQUARE` (R93). -/
  | waveSquare (i : Slot)
  /-- `WAVE_TRIANGLE` (R94). -/
  | waveTriangle (i : Slot)
  /-- `WAVE_SAWTOOTH` (R95). -/
  | waveSawtooth (i : Slot)
  /-- `WAVE_SINE` (R96). -/
  | waveSine (i : Slot)
  /-- `WAVE_NONE` (R97). -/
  | waveNone (i : Slot)
  /-- `ENV_RELEASE` (R101). -/
  | envRelease (i : Slot)
  /-- `ENV_ATTACK` (R102). -/
  | envAttack (i : Slot)
  /-- `ENV_DECAY` (R103). -/
  | envDecay (i : Slot)
  /-- `ENV_SUSTAIN` (R104). -/
  | envSustain (i : Slot)
  /-- `NOTE_TO_FREQUENCY` (R77). -/
  | noteToFrequency (i : Slot)
  /-- `APPLY_PITCH_BEND` (R79). -/
  | applyPitchBend (i : Slot)
  /-- `FREQUENCY_TO_WAVELENGTH` (R82). -/
  | frequencyToWavelength (i : Slot)
  /-- `PHASE_NORMALISE` (R87). -/
  | phaseNormalise (i : Slot)
  /-- `LATCH_UPDATE` (R105). -/
  | latchUpdate (i : Slot)
  /-- `VOICE_SCALE` (R108). -/
  | voiceScale (i : Slot)
  /-- `LIFE_ADVANCE` (R85). -/
  | lifeAdvance (i : Slot)
  /-- `PHASE_ADVANCE` (R86). -/
  | phaseAdvance (i : Slot)
  /-- `VOICE_STEP` (R109). -/
  | voiceStep (i : Slot)
  /-- `MIX_ACCUMULATE` (R110). -/
  | mixAccumulate
  /-- `MIX_SCALE` (R111). -/
  | mixScale
deriving DecidableEq, Repr

end Sys2Proof
end

