-- ==== Sys2Proof/WellFormed.lean ====
section
/-! DEFINITION. Which operations a configuration admits: the only check the spec gives is the slot bound
(spec/20_memory.md R29). Every field value of a record is legal (spec/30_encoding.md R49). -/

namespace Sys2Proof

/-- A slot index is valid when it is below `N_GENERATORS` (R29). -/
def slotValid (c : Cfg) (i : Slot) : Bool := decide (i.toNat < c.nGenerators)

/-- Well-formed operations: every slot named exists (R29). -/
def Instr.wf (c : Cfg) : Instr → Bool
  | .reset => true
  | .tick => true
  | .pktGlobal _ => true
  | .pktGenerator i _ _ => slotValid c i
  | .pktIgnored => true
  | .waveSquare i => slotValid c i
  | .waveTriangle i => slotValid c i
  | .waveSawtooth i => slotValid c i
  | .waveSine i => slotValid c i
  | .waveNone i => slotValid c i
  | .envRelease i => slotValid c i
  | .envAttack i => slotValid c i
  | .envDecay i => slotValid c i
  | .envSustain i => slotValid c i
  | .noteToFrequency i => slotValid c i
  | .applyPitchBend i => slotValid c i
  | .frequencyToWavelength i => slotValid c i
  | .phaseNormalise i => slotValid c i
  | .latchUpdate i => slotValid c i
  | .voiceScale i => slotValid c i
  | .lifeAdvance i => slotValid c i
  | .phaseAdvance i => slotValid c i
  | .voiceStep i => slotValid c i
  | .mixAccumulate => true
  | .mixScale => true

end Sys2Proof
end

