-- ==== Sys2Proof/Decode.lean ====
section
/-! DEFINITION. The Wire Codec (spec/30_encoding.md, spec/41_command_packets.md R70): decoding a received packet, total on any
bytes, and the encoder of the two packet layouts; the instrument selector codes (R48); and the host's view of both as
table words. -/

namespace Sys2Proof

/-- Tag of a global-state packet (R40). -/
abbrev tagGlobal : Byte := 1

/-- Tag of a generator-state packet (R40). -/
abbrev tagGenerator : Byte := 2

/-- `LEN_G`, minimum length of a format G packet (R41). -/
abbrev lenGlobal : Nat := 31

/-- `LEN_V`, minimum length of a format V packet (R42). -/
abbrev lenGenerator : Nat := 9

/-- `pkt[k]`. The default is never read: every caller checks the length first (R50). -/
def byteAt (pkt : Packet) (k : Nat) : Byte := pkt.getD k 0

/-- `le16(pkt, k)`: the byte at the higher offset is the more significant (R33, R46). -/
def le16 (pkt : Packet) (k : Nat) : BitVec 16 := byteAt pkt (k + 1) ++ byteAt pkt k

/-- `le32(pkt, k)` (R33, R46). -/
def le32 (pkt : Packet) (k : Nat) : BitVec 32 :=
  byteAt pkt (k + 3) ++ byteAt pkt (k + 2) ++ byteAt pkt (k + 1) ++ byteAt pkt k

/-- The GlobalState record of a format G packet (R41). -/
def readGlobal (pkt : Packet) : GlobalRecord where
  masterVolume := byteAt pkt 1
  env :=
    { attack := le32 pkt 2
      decay := le32 pkt 6
      sustain := byteAt pkt 10
      release := le32 pkt 11 }
  pitchBend :=
    #v[byteAt pkt 15, byteAt pkt 16, byteAt pkt 17, byteAt pkt 18,
       byteAt pkt 19, byteAt pkt 20, byteAt pkt 21, byteAt pkt 22,
       byteAt pkt 23, byteAt pkt 24, byteAt pkt 25, byteAt pkt 26,
       byteAt pkt 27, byteAt pkt 28, byteAt pkt 29, byteAt pkt 30]

/-- The VoiceAssignment record of a format V packet (R42). -/
def readAssignment (pkt : Packet) : Assignment where
  enabled := byteAt pkt 4
  instrument := byteAt pkt 5
  noteIndex := byteAt pkt 6
  channelIndex := byteAt pkt 7
  velocity := byteAt pkt 8

/-- Why a packet is discarded: the classes of R51 and R73. They are names only; nothing records them (R133). -/
inductive Discard where
  /-- `len = 0`. -/
  | empty
  /-- Tag 1 and `len < 31`. -/
  | shortGlobal
  /-- Tag 2 and `len < 9`. -/
  | shortGenerator
  /-- Tag 2, long enough, slot index at or above `N_GENERATORS`. -/
  | badSlot
  /-- Tag 0 or 3..255. -/
  | unknownTag
deriving DecidableEq, Repr

/-- The classification of R51 and R70, in that order of checks: an accepted packet's operation, or why it is discarded. -/
def classify (c : Cfg) (pkt : Packet) : Except Discard Instr :=
  match pkt with
  | [] => .error .empty
  | tag :: _ =>
    if tag = tagGlobal then
      if lenGlobal ≤ pkt.length then .ok (.pktGlobal (readGlobal pkt)) else .error .shortGlobal
    else if tag = tagGenerator then
      if pkt.length < lenGenerator then .error .shortGenerator
      else if c.nGenerators ≤ (le16 pkt 1).toNat then .error .badSlot
      else .ok (.pktGenerator (le16 pkt 1) (byteAt pkt 3) (readAssignment pkt))
    else .error .unknownTag

/-- The operation a received packet selects: every discarded packet is `PKT_IGNORED` (R70, R73). -/
def decode (c : Cfg) (pkt : Packet) : Instr :=
  match classify c pkt with
  | .ok i => i
  | .error _ => .pktIgnored

/-- The four bytes of a little-endian 32-bit field, lowest offset first (R33). -/
def le32Bytes (v : BitVec 32) : Packet :=
  [v.extractLsb' 0 8, v.extractLsb' 8 8, v.extractLsb' 16 8, v.extractLsb' 24 8]

/-- The two bytes of a little-endian 16-bit field (R33). -/
def le16Bytes (v : BitVec 16) : Packet := [v.extractLsb' 0 8, v.extractLsb' 8 8]

/-- The `GLOBAL` packet of R69, layout R41. -/
def encodeGlobal (r : GlobalRecord) : Packet :=
  tagGlobal :: r.masterVolume ::
    (le32Bytes r.env.attack ++ le32Bytes r.env.decay ++ [r.env.sustain] ++ le32Bytes r.env.release ++
      r.pitchBend.toList)

/-- The `GEN` packet of R69, layout R42. -/
def encodeGenerator (slot : Slot) (resetFlag : Byte) (a : Assignment) : Packet :=
  tagGenerator ::
    (le16Bytes slot ++ [resetFlag, a.enabled, a.instrument, a.noteIndex, a.channelIndex, a.velocity])

/-- The packet that selects an operation, where one does (R54). `PKT_IGNORED` has many; the empty packet stands for them.
The events `RESET` and `TICK` and the steps of `TICK` carry no bytes. -/
def encode : Instr → Option Packet
  | .reset => none
  | .tick => none
  | .pktGlobal r => some (encodeGlobal r)
  | .pktGenerator slot rf a => some (encodeGenerator slot rf a)
  | .pktIgnored => some []
  | .waveSquare _ => none
  | .waveTriangle _ => none
  | .waveSawtooth _ => none
  | .waveSine _ => none
  | .waveNone _ => none
  | .envRelease _ => none
  | .envAttack _ => none
  | .envDecay _ => none
  | .envSustain _ => none
  | .noteToFrequency _ => none
  | .applyPitchBend _ => none
  | .frequencyToWavelength _ => none
  | .phaseNormalise _ => none
  | .latchUpdate _ => none
  | .voiceScale _ => none
  | .lifeAdvance _ => none
  | .phaseAdvance _ => none
  | .voiceStep _ => none
  | .mixAccumulate => none
  | .mixScale => none

/-- The waveform an instrument byte selects (R48). -/
def waveformOf (instrument : Byte) : Waveform :=
  if instrument = 0 then .square
  else if instrument = 1 then .triangle
  else if instrument = 2 then .sawtooth
  else if instrument = 3 then .sine
  else .silent

/-- The step of `TICK` an instrument byte selects for slot `i` (R48, R54). -/
def decodeSelector (instrument : Byte) (i : Slot) : Instr :=
  match waveformOf instrument with
  | .square => .waveSquare i
  | .triangle => .waveTriangle i
  | .sawtooth => .waveSawtooth i
  | .sine => .waveSine i
  | .silent => .waveNone i

/-- The selector byte of a waveform step, where it has exactly one (R48). -/
def encodeSelector : Waveform → Option Byte
  | .square => some 0
  | .triangle => some 1
  | .sawtooth => some 2
  | .sine => some 3
  | .silent => none

/-- `n` bytes of a table word, bits 7..0 the first byte; bits above the word are 0. -/
def wordBytes (w : Nat) : Nat → Packet
  | 0 => []
  | n + 1 => BitVec.ofNat 8 w :: wordBytes (w / 256) n

/-- A table word as a received packet: as long as the longest packet layout, or as the word if that is longer (log 4). -/
def tablePacket (nbits w : Nat) : Packet := wordBytes (w % 2 ^ nbits) (max lenGlobal (nbits / 8))

/-- What the packet decoder reads from a table word, for the reference configuration. A word is always read as a packet: the
block has no other encoded input (spec/30_encoding.md, preamble; log 4). -/
def decodeTableWord (nbits w : Nat) : Option Instr := some (decode Cfg.reference (tablePacket nbits w))

end Sys2Proof
end

