-- ==== Sys2Proof/Machine/State.lean ====
section
/-! DEFINITION. The state of the block as plain data (spec/10_state.md), with its surroundings: the event sequence, the link,
the host and the audio sink (INVENTORY.md, '## State'). -/

namespace Sys2Proof.Machine

open Sys2Proof

/-- Why the machine would stop. There is no such reason: "No operation of the block can fault, trap, hang or stop"
(spec/60_exceptions.md R117). -/
inductive Fault
deriving DecidableEq, Repr

/-- Why a step has no meaning. -/
inductive Refusal where
  /-- An operation without a meaning in this model, by the mnemonic of the opcode table. Raised by no arm (safe). -/
  | notModelled (mnemonic : String)
  /-- The configuration breaks a constraint of spec/00_scope.md R8. Raised by `step` before any event is taken (safe: R117 names
  this as the only refusal of a model). -/
  | badConfiguration
deriving DecidableEq, Repr

/-- `G.env` (spec/10_state.md R17). Widths are `DUR_W` and `LEVEL_W` of the configuration. -/
structure Envelope where
  attack : Nat
  decay : Nat
  sustain : Nat
  release : Nat
deriving DecidableEq, Repr

/-- `G`, the GlobalState replica (spec/10_state.md R15 to R18). -/
structure GlobalState where
  masterVolume : Byte
  env : Envelope
  /-- Sixteen signed bytes, read as two's complement (R18). -/
  pitchBend : Vector Byte 16
deriving DecidableEq, Repr

/-- `V[i]`, one voice slot (spec/10_state.md R11 to R14). -/
structure Voice where
  /-- The assignment copy, as received (R11). -/
  assign : Assignment
  /-- Elapsed life in life units, `LIFE_W` bits (R12). -/
  life : Nat
  /-- Phase accumulator in life units, `PHASE_W` bits (R13). -/
  phase : Nat
  /-- Latched release level, `LEVEL_W` bits (R14). -/
  latched : Nat
deriving DecidableEq, Repr

/-- The values that live only inside one `TICK` (spec/10_state.md R21). The model's own place for them, so that each step of
`TICK` is an operation with a meaning; idle between events (DESIGN CHOICE, log 5). -/
structure Work where
  noteFreq : Nat
  freq : Nat
  wavelength : Nat
  wave : Int
  level : Nat
  sample : Int
  acc : Int
  out : Int
deriving DecidableEq, Repr

/-- The host's state (spec/40_host_control_plane.md R55). -/
structure ControlPlane where
  /-- The authoritative GlobalState. -/
  globals : GlobalRecord
  /-- `H[0 .. N_GENERATORS-1]`. -/
  table : List Assignment
  /-- `cur`, the round-robin cursor. -/
  cursor : Nat
  /-- `cur_instrument`, a parameter left `OPEN`, one of 0..3 (decision D33, R68); no event writes it. -/
  curInstrument : Fin 4
deriving DecidableEq, Repr

/-- What the environment delivers, one event a step (spec/20_memory.md R36), the host's events among them (R131). -/
inductive Event where
  /-- `RESET` (spec/70_reset_and_hazards.md R134). -/
  | reset
  /-- `TICK`, one sample period (spec/45_mixer_and_tick.md R113). -/
  | tick
  /-- `CMD(pkt, len)`: these bytes reach the block (spec/00_scope.md R6), whoever sent them (spec/60_exceptions.md R128). -/
  | cmd (pkt : Packet)
  /-- The link hands the oldest undelivered packet of the host to the block (R36 (a), R131). -/
  | deliver
  /-- The host receives a MIDI-style message (spec/40_host_control_plane.md R57). -/
  | midi (msg : Packet)
  /-- The host starts with this GlobalState, sending one `GLOBAL` packet and, if asked, one disabling `GEN` packet per slot
  (spec/70_reset_and_hazards.md R137). -/
  | hostStart (r : GlobalRecord) (sync : Bool)
  /-- The host's master volume and envelope change (spec/40_host_control_plane.md R67). -/
  | hostSet (masterVolume : Byte) (env : EnvRecord)
deriving DecidableEq, Repr

/-- The machine and its surroundings. -/
structure State where
  /-- `CFG`; no operation writes it (spec/10_state.md R22, R26; log 1). -/
  cfg : Cfg
  /-- `G`. -/
  g : GlobalState
  /-- `V[0 .. N_GENERATORS-1]`. -/
  v : List Voice
  /-- Values inside a `TICK`. -/
  work : Work
  /-- The event sequence still to come (spec/20_memory.md R36). -/
  inputs : List Event
  /-- Packets the host sent that the block has not received, oldest first. -/
  link : List Packet
  /-- The host. -/
  control : ControlPlane
  /-- Samples handed to the audio sink, oldest first (spec/45_mixer_and_tick.md R112, R116). -/
  emitted : List Int
deriving DecidableEq, Repr

/-- A record of zero bytes. -/
def zeroAssignment : Assignment :=
  { enabled := 0, instrument := 0, noteIndex := 0, channelIndex := 0, velocity := 0 }

/-- A GlobalState record of zero bytes. -/
def zeroRecord : GlobalRecord :=
  { masterVolume := 0
    env := { attack := 0, decay := 0, sustain := 0, release := 0 }
    pitchBend := #v[0, 0, 0, 0, 0, 0, 0, 0, 0, 0, 0, 0, 0, 0, 0, 0] }

/-- `G` after `RESET` (R27). -/
def GlobalState.zero : GlobalState :=
  { masterVolume := 0
    env := { attack := 0, decay := 0, sustain := 0, release := 0 }
    pitchBend := #v[0, 0, 0, 0, 0, 0, 0, 0, 0, 0, 0, 0, 0, 0, 0, 0] }

/-- A voice slot after `RESET` (R27). -/
def Voice.zero : Voice := { assign := zeroAssignment, life := 0, phase := 0, latched := 0 }

/-- The working values between events (log 5). -/
def Work.idle : Work :=
  { noteFreq := 0, freq := 0, wavelength := 0, wave := 0, level := 0, sample := 0, acc := 0, out := 0 }

/-- The host before it has done anything: R55's "natural start" with a zero GlobalState (DESIGN CHOICE, log 10). -/
def ControlPlane.initial (c : Cfg) : ControlPlane :=
  { globals := zeroRecord, table := List.replicate c.nGenerators zeroAssignment, cursor := 0, curInstrument := 0 }

/-- The machine right after reset, in the reference configuration (R27, R134; logs 1, 2, 9, 10, 12). -/
def State.reset : State :=
  { cfg := Cfg.reference
    g := GlobalState.zero
    v := List.replicate Cfg.reference.nGenerators Voice.zero
    work := Work.idle
    inputs := []
    link := []
    control := ControlPlane.initial Cfg.reference
    emitted := [] }

end Sys2Proof.Machine
end

