-- ==== Sys2Proof/Machine/Flags.lean ====
section
/-! DEFINITION. The flags: a byte is true when it is non-zero (spec/30_encoding.md R47). `V[i].enabled` is the only flag held in
state (spec/10_state.md R23); the reset flag is consumed with its packet. No operation sets a flag as a side effect (R23). -/

namespace Sys2Proof.Machine

open Sys2Proof

/-- A flag byte is true when it is non-zero (R47). -/
def flagSet (b : Byte) : Bool := b != 0

/-- The enabled flag of an assignment (R11, R47). -/
def isEnabled (a : Assignment) : Bool := flagSet a.enabled

end Sys2Proof.Machine
end

