-- ==== Sys2Proof/Machine/Operands.lean ====
section
/-! DEFINITION. The arithmetic primitives of spec/00_scope.md R9 and the operand forms: the masked reads of an assignment
(spec/30_encoding.md R49) and the table and bend lookups (spec/20_memory.md R30 to R32). -/

namespace Sys2Proof.Machine

open Sys2Proof

/-- `trunc_N(v)` on naturals (R9). -/
def truncU (n v : Nat) : Nat := v % 2 ^ n

/-- `sext_N(trunc_N(v))`: the N-bit pattern of `v` read as two's complement (R9). -/
def wrapS (n : Nat) (v : Int) : Int :=
  let u := v % (2 ^ n : Nat)
  if u < (2 ^ (n - 1) : Nat) then u else u - (2 ^ n : Nat)

/-- `tdiv(a, b)`: division truncating toward zero (R9). R9 gives it for `b >= 1`; 0 for `b = 0` is a fallback (log 18). -/
def tdiv (a : Int) (b : Nat) : Int :=
  if 0 ≤ a then ((a.toNat / b : Nat) : Int) else -(((-a).toNat / b : Nat) : Int)

/-- `note_index[6:0]` (R49, R31). -/
def noteOf (a : Assignment) : Nat := (a.noteIndex.extractLsb' 0 7).toNat

/-- `channel_index[3:0]` (R49, R30). -/
def channelOf (a : Assignment) : Fin 16 := (a.channelIndex.extractLsb' 0 4).toFin

/-- `velocity[6:0]` (R49, R108). -/
def velocityOf (a : Assignment) : Nat := (a.velocity.extractLsb' 0 7).toNat

/-- `NOTE_FREQ[n]` (R77). A valid configuration has the entries 0..127; an absent entry reads 0 (log 18). -/
def noteFreqAt (c : Cfg) (n : Nat) : Nat := c.noteFreq.getD n 0

/-- `SINE_LUT[k]` (R96). A valid configuration has the entries below `SINE_LUT_SIZE`; an absent entry reads 0 (log 18). -/
def sineAt (c : Cfg) (k : Nat) : Int := c.sineLut.getD k 0

/-- `G.pitch_bend[c]` as a signed value (R18, R46). -/
def bendAt (g : GlobalState) (ch : Fin 16) : Int := g.pitchBend[ch].toInt

/-- A received GlobalState record as `G`: each field stored as transmitted, in a register of its width
(R46, spec/10_state.md R17; a register narrower than its field keeps the low bits, log 8). -/
def storeGlobal (c : Cfg) (r : GlobalRecord) : GlobalState :=
  { masterVolume := r.masterVolume
    env :=
      { attack := truncU c.durW r.env.attack.toNat
        decay := truncU c.durW r.env.decay.toNat
        sustain := truncU c.levelW r.env.sustain.toNat
        release := truncU c.durW r.env.release.toNat }
    pitchBend := r.pitchBend }

end Sys2Proof.Machine
end

