-- ==== Sys2Proof/Machine/Ops.lean ====
section
/-! DEFINITION. The shared operations over the state: named updates, access to a voice slot, one step of a voice inside `TICK`,
emission of a sample, sending on the link, and the discard. The block has no memory (spec/20_memory.md R28) and takes no exception
(spec/60_exceptions.md R117, R126, R127): a rejected packet is discarded, which is `discard`. -/

namespace Sys2Proof.Machine

open Sys2Proof

/-- Overwrite `G` whole (spec/20_memory.md R35 (a)). -/
def State.setG (s : State) (g : GlobalState) : State := { s with g := g }

/-- Replace the voice array. -/
def State.setV (s : State) (v : List Voice) : State := { s with v := v }

/-- Replace the working values of a `TICK`. -/
def State.setWork (s : State) (w : Work) : State := { s with work := w }

/-- Replace the event sequence. -/
def State.setInputs (s : State) (es : List Event) : State := { s with inputs := es }

/-- Replace the packets in flight. -/
def State.setLink (s : State) (ps : List Packet) : State := { s with link := ps }

/-- Replace the host's state. -/
def State.setControl (s : State) (h : ControlPlane) : State := { s with control := h }

/-- `emit OUT(v)`: hand one sample to the audio sink (spec/45_mixer_and_tick.md R112). -/
def State.emit (s : State) (v : Int) : State := { s with emitted := s.emitted ++ [v] }

/-- `V[i]`, for a slot that exists (spec/20_memory.md R29: "implementation must not index out of bounds"). -/
def State.voice? (s : State) (i : Slot) : Option Voice := if slotValid s.cfg i then s.v[i.toNat]? else none

/-- Rewrite slot `i`; a slot that does not exist is no slot, and nothing changes (R29; log 6). -/
def State.modifyVoice (s : State) (i : Slot) (f : Voice → Voice) : State :=
  match s.voice? i with
  | some v => s.setV (s.v.set i.toNat (f v))
  | none => s

/-- One voice with the working values of the `TICK` that computes it. -/
structure Lane where
  voice : Voice
  work : Work
deriving DecidableEq, Repr

/-- Run one step of `TICK` for slot `i`; nothing happens for a slot that does not exist (log 6). -/
def State.onSlot (s : State) (i : Slot) (f : Lane → Lane) : State :=
  match s.voice? i with
  | some v => (s.setV (s.v.set i.toNat (f ⟨v, s.work⟩).voice)).setWork (f ⟨v, s.work⟩).work
  | none => s

/-- A rejected packet: "discard; local state unchanged" (spec/60_exceptions.md R118, R122, R123). -/
def discard (s : State) : State := s

/-- The host puts packets on the link, in order (spec/20_memory.md R36 (a)). -/
def State.send (s : State) (ps : List Packet) : State := s.setLink (s.link ++ ps)

/-- The outcome of every operation of the block: all are total (spec/60_exceptions.md R117). -/
def done (s : State) : Host.Outcome State Fault Refusal := .next s

end Sys2Proof.Machine
end

