-- ==== Sys2Proof/Machine/Envelope.lean ====
section
/-! DEFINITION. The ADSR envelope (spec/44_envelope.md): ENV_RELEASE, ENV_ATTACK, ENV_DECAY, ENV_SUSTAIN, LATCH_UPDATE. -/

namespace Sys2Proof.Machine

open Sys2Proof

/-- The envelope states of R100. They are recomputed at each `TICK`, not stored (spec/10_state.md R21). -/
inductive EnvState where
  | release
  | attack
  | decay
  | sustain
deriving DecidableEq, Repr

/-- `t`, the count of sample periods (R99). -/
def elapsed (c : Cfg) (life : Nat) : Nat := life / c.lifeScale

/-- State selection (R100). `A + D` is exact. -/
def envState (en : Bool) (t : Nat) (e : Envelope) : EnvState :=
  if !en then .release
  else if t < e.attack then .attack
  else if t < e.attack + e.decay then .decay
  else .sustain

/-- `ENV_RELEASE` level (R101). -/
def releaseLevel (t latched : Nat) (e : Envelope) : Nat :=
  if t < e.release then latched * (e.release - t) / e.release else 0

/-- `ENV_ATTACK` level (R102). -/
def attackLevel (c : Cfg) (t : Nat) (e : Envelope) : Nat := c.envFull * t / e.attack

/-- `ENV_DECAY` level (R103). -/
def decayLevel (c : Cfg) (t : Nat) (e : Envelope) : Nat :=
  c.envFull - (c.envFull - e.sustain) * (t - e.attack) / e.decay

/-- `ENV_SUSTAIN` level (R104). -/
def sustainLevel (e : Envelope) : Nat := e.sustain

/-- The level of a given envelope state (R101 to R104). -/
def levelIn (c : Cfg) (t latched : Nat) (e : Envelope) : EnvState → Nat
  | .release => releaseLevel t latched e
  | .attack => attackLevel c t e
  | .decay => decayLevel c t e
  | .sustain => sustainLevel e

/-- `env_level(en, t, L, E)` (R98). -/
def envLevel (c : Cfg) (en : Bool) (t latched : Nat) (e : Envelope) : Nat :=
  levelIn c t latched e (envState en t e)

/-- The envelope state of a voice at this moment (R98 to R100). -/
def Voice.envState (c : Cfg) (g : GlobalState) (v : Voice) : EnvState :=
  Machine.envState (isEnabled v.assign) (elapsed c v.life) g.env

/-- An envelope step: it is selected by the voice's flag and elapsed life (R54, R100). A step that is not selected does
nothing (log 5), so no division has a zero divisor (R106). -/
def Lane.envStep (c : Cfg) (g : GlobalState) (k : EnvState) (l : Lane) : Lane :=
  if l.voice.envState c g = k then
    { l with work := { l.work with level := levelIn c (elapsed c l.voice.life) l.voice.latched g.env k } }
  else l

/-- `latch_update(i)` (R105). -/
def Lane.latchUpdate (l : Lane) : Lane :=
  if isEnabled l.voice.assign then { l with voice := { l.voice with latched := l.work.level } } else l

/-- ENV_RELEASE (R101). -/
def execEnvRelease (i : Slot) (s : State) : Host.Outcome State Fault Refusal :=
  done (s.onSlot i (Lane.envStep s.cfg s.g .release))

/-- ENV_ATTACK (R102). -/
def execEnvAttack (i : Slot) (s : State) : Host.Outcome State Fault Refusal :=
  done (s.onSlot i (Lane.envStep s.cfg s.g .attack))

/-- ENV_DECAY (R103). -/
def execEnvDecay (i : Slot) (s : State) : Host.Outcome State Fault Refusal :=
  done (s.onSlot i (Lane.envStep s.cfg s.g .decay))

/-- ENV_SUSTAIN (R104). -/
def execEnvSustain (i : Slot) (s : State) : Host.Outcome State Fault Refusal :=
  done (s.onSlot i (Lane.envStep s.cfg s.g .sustain))

/-- LATCH_UPDATE (R105). -/
def execLatchUpdate (i : Slot) (s : State) : Host.Outcome State Fault Refusal :=
  done (s.onSlot i Lane.latchUpdate)

end Sys2Proof.Machine
end

