-- ==== Sys2Proof/Machine/Frequency.lean ====
section
/-! DEFINITION. Fixed-point frequency and the phase accumulator (spec/42_frequency_and_phase.md): NOTE_TO_FREQUENCY, APPLY_PITCH_BEND,
FREQUENCY_TO_WAVELENGTH, LIFE_ADVANCE, PHASE_NORMALISE, PHASE_ADVANCE. -/

namespace Sys2Proof.Machine

open Sys2Proof

/-- The bend factor of R79. -/
def bendFactor (c : Cfg) (b : Int) : Int := b * c.bendLinearScale + c.bendLinearOffset

/-- `apply_pitch_bend(f, b)`: one multiply, then one shift of the product, floor (R79). A valid configuration has a positive
factor, so the result is no cut there. -/
def bendFrequency (c : Cfg) (f : Nat) (b : Int) : Nat := (f * bendFactor c b / (2 ^ c.bendShift : Nat)).toNat

/-- `frequency_to_wavelength(f)`, floor; 0 when `f = 0` (R82). -/
def wavelengthOf (c : Cfg) (f : Nat) : Nat :=
  if f = 0 then 0 else (c.sampleRate <<< c.freqShift) * c.lifeScale / f

/-- `voice_freq(i)` (R81). -/
def voiceFreq (c : Cfg) (g : GlobalState) (a : Assignment) : Nat :=
  bendFrequency c (noteFreqAt c (noteOf a)) (bendAt g (channelOf a))

/-- `w_i` (R83). -/
def voiceWavelength (c : Cfg) (g : GlobalState) (a : Assignment) : Nat := wavelengthOf c (voiceFreq c g a)

/-- The phase after `phase_normalise` (R87). -/
def normalised (phase w : Nat) : Nat := if w ≤ phase then 0 else phase

/-- The phase after `phase_advance`: the wrap is to zero, any overshoot is dropped (R86). -/
def advancedPhase (c : Cfg) (phase w : Nat) : Nat :=
  if w ≤ phase + c.lifeScale then 0 else phase + c.lifeScale

/-- The life after `life_advance` (R85). -/
def advancedLife (c : Cfg) (life : Nat) : Nat := truncU c.lifeW (life + c.lifeScale)

def Lane.noteToFrequency (c : Cfg) (l : Lane) : Lane :=
  { l with work := { l.work with noteFreq := noteFreqAt c (noteOf l.voice.assign) } }

def Lane.applyPitchBend (c : Cfg) (g : GlobalState) (l : Lane) : Lane :=
  { l with work := { l.work with freq := bendFrequency c l.work.noteFreq (bendAt g (channelOf l.voice.assign)) } }

def Lane.frequencyToWavelength (c : Cfg) (l : Lane) : Lane :=
  { l with work := { l.work with wavelength := wavelengthOf c l.work.freq } }

def Lane.phaseNormalise (l : Lane) : Lane :=
  { l with voice := { l.voice with phase := normalised l.voice.phase l.work.wavelength } }

def Lane.lifeAdvance (c : Cfg) (l : Lane) : Lane :=
  { l with voice := { l.voice with life := advancedLife c l.voice.life } }

def Lane.phaseAdvance (c : Cfg) (l : Lane) : Lane :=
  { l with voice := { l.voice with phase := advancedPhase c l.voice.phase l.work.wavelength } }

/-- NOTE_TO_FREQUENCY (R77). -/
def execNoteToFrequency (i : Slot) (s : State) : Host.Outcome State Fault Refusal :=
  done (s.onSlot i (Lane.noteToFrequency s.cfg))

/-- APPLY_PITCH_BEND (R79) of the frequency at hand, with the bend of the voice's own channel (R81). -/
def execApplyPitchBend (i : Slot) (s : State) : Host.Outcome State Fault Refusal :=
  done (s.onSlot i (Lane.applyPitchBend s.cfg s.g))

/-- FREQUENCY_TO_WAVELENGTH (R82). -/
def execFrequencyToWavelength (i : Slot) (s : State) : Host.Outcome State Fault Refusal :=
  done (s.onSlot i (Lane.frequencyToWavelength s.cfg))

/-- PHASE_NORMALISE (R87). -/
def execPhaseNormalise (i : Slot) (s : State) : Host.Outcome State Fault Refusal :=
  done (s.onSlot i Lane.phaseNormalise)

/-- LIFE_ADVANCE (R85). -/
def execLifeAdvance (i : Slot) (s : State) : Host.Outcome State Fault Refusal :=
  done (s.onSlot i (Lane.lifeAdvance s.cfg))

/-- PHASE_ADVANCE (R86). -/
def execPhaseAdvance (i : Slot) (s : State) : Host.Outcome State Fault Refusal :=
  done (s.onSlot i (Lane.phaseAdvance s.cfg))

end Sys2Proof.Machine
end

