-- ==== Sys2Proof/Machine/Waveforms.lean ====
section
/-! DEFINITION. Waveform synthesis (spec/43_waveforms.md): WAVE_SQUARE, WAVE_TRIANGLE, WAVE_SAWTOOTH, WAVE_SINE, WAVE_NONE. -/

namespace Sys2Proof.Machine

open Sys2Proof

/-- `square(phase, w)` (R93). -/
def square (c : Cfg) (phase w : Nat) : Int := if phase < w >>> 1 then c.sampleMax else -c.sampleMax

/-- `triangle(phase, w)` (R94): the folded phase, floor division of naturals. -/
def triangle (c : Cfg) (phase w : Nat) : Int :=
  ((4 * c.sampleMax * min phase (w - phase) / w : Nat) : Int) - c.sampleMax

/-- `sawtooth(phase, w)` (R95). -/
def sawtooth (c : Cfg) (phase w : Nat) : Int := ((2 * c.sampleMax * phase / w : Nat) : Int) - c.sampleMax

/-- `sine(phase, w)` (R96): table lookup without interpolation. -/
def sine (c : Cfg) (phase w : Nat) : Int := sineAt c (phase * c.sineLutSize / w)

/-- The shape a selector picks, at a phase inside the period (R93 to R97). -/
def shape (c : Cfg) : Waveform → Nat → Nat → Int
  | .square => square c
  | .triangle => triangle c
  | .sawtooth => sawtooth c
  | .sine => sine c
  | .silent => fun _ _ => 0

/-- `wave(k, phase, w)` (R91): a zero wavelength gives 0 whatever the selector (R92). -/
def wave (c : Cfg) (k : Byte) (phase w : Nat) : Int :=
  if w = 0 then 0 else shape c (waveformOf k) phase w

/-- A waveform step: it is selected by the voice's instrument byte (R54) and reads the normalised phase (R91). A step that
is not selected does nothing (log 5). -/
def Lane.waveStep (c : Cfg) (k : Waveform) (l : Lane) : Lane :=
  if waveformOf l.voice.assign.instrument = k then
    { l with work :=
        { l.work with
          wave := wave c l.voice.assign.instrument (normalised l.voice.phase l.work.wavelength) l.work.wavelength } }
  else l

/-- WAVE_SQUARE (R93). -/
def execWaveSquare (i : Slot) (s : State) : Host.Outcome State Fault Refusal :=
  done (s.onSlot i (Lane.waveStep s.cfg .square))

/-- WAVE_TRIANGLE (R94). -/
def execWaveTriangle (i : Slot) (s : State) : Host.Outcome State Fault Refusal :=
  done (s.onSlot i (Lane.waveStep s.cfg .triangle))

/-- WAVE_SAWTOOTH (R95). -/
def execWaveSawtooth (i : Slot) (s : State) : Host.Outcome State Fault Refusal :=
  done (s.onSlot i (Lane.waveStep s.cfg .sawtooth))

/-- WAVE_SINE (R96). -/
def execWaveSine (i : Slot) (s : State) : Host.Outcome State Fault Refusal :=
  done (s.onSlot i (Lane.waveStep s.cfg .sine))

/-- WAVE_NONE (R97). -/
def execWaveNone (i : Slot) (s : State) : Host.Outcome State Fault Refusal :=
  done (s.onSlot i (Lane.waveStep s.cfg .silent))

end Sys2Proof.Machine
end

