-- ==== Sys2Proof/Machine/Mixer.lean ====
section
/-! DEFINITION. Voice sample, mixer and TICK (spec/45_mixer_and_tick.md): VOICE_SCALE, VOICE_STEP, MIX_ACCUMULATE, MIX_SCALE, TICK. -/

namespace Sys2Proof.Machine

open Sys2Proof

/-- `voice_scale(s_wave, lvl, vel)` (R108). -/
def voiceSample (c : Cfg) (sWave : Int) (lvl vel : Nat) : Int :=
  tdiv (tdiv (sWave * lvl) c.envFull * vel) c.velocityMax

def Lane.voiceScale (c : Cfg) (l : Lane) : Lane :=
  { l with work := { l.work with sample := voiceSample c l.work.wave l.work.level (velocityOf l.voice.assign) } }

/-- `voice_step(i)` (R109): the steps in the order given, the waveform and the envelope state being the selected ones. -/
def Lane.voiceStep (c : Cfg) (g : GlobalState) (l : Lane) : Lane :=
  let l := l.noteToFrequency c
  let l := l.applyPitchBend c g
  let l := l.frequencyToWavelength c
  let l := l.phaseNormalise
  let l := l.waveStep c (waveformOf l.voice.assign.instrument)
  let l := l.envStep c g (l.voice.envState c g)
  let l := l.latchUpdate
  let l := l.voiceScale c
  let l := l.lifeAdvance c
  l.phaseAdvance c

/-- One voice run through a `TICK`. -/
def runVoice (c : Cfg) (g : GlobalState) (v : Voice) : Lane := Lane.voiceStep c g ⟨v, Work.idle⟩

/-- The voices run through a `TICK`, in slot order (R113); no voice reads another (R115). -/
def runVoices (s : State) : List Lane := s.v.map (runVoice s.cfg s.g)

/-- `acc`: every voice is invoked once and the samples are summed exactly (R110). -/
def mixAccumulate (s : State) : State :=
  (s.setV ((runVoices s).map (·.voice))).setWork
    { s.work with acc := ((runVoices s).map (·.work.sample)).sum }

/-- `out = (acc * G.master_volume) << HEADROOM_SHIFT` (R111). -/
def mixOut (c : Cfg) (masterVolume : Byte) (acc : Int) : Int := acc * masterVolume.toNat * (2 ^ c.headroomShift : Nat)

def mixScale (s : State) : State :=
  s.setWork { s.work with out := mixOut s.cfg s.g.masterVolume s.work.acc }

/-- The end of a `TICK`: one `OUT_W`-bit sample is emitted (R112) and no working value is kept (spec/10_state.md R21). -/
def finishTick (s : State) : State := (s.emit (wrapS s.cfg.outW s.work.out)).setWork Work.idle

/-- VOICE_SCALE (R108). -/
def execVoiceScale (i : Slot) (s : State) : Host.Outcome State Fault Refusal :=
  done (s.onSlot i (Lane.voiceScale s.cfg))

/-- VOICE_STEP (R109). -/
def execVoiceStep (i : Slot) (s : State) : Host.Outcome State Fault Refusal :=
  done (s.onSlot i (Lane.voiceStep s.cfg s.g))

/-- MIX_ACCUMULATE (R110). -/
def execMixAccumulate (s : State) : Host.Outcome State Fault Refusal := done (mixAccumulate s)

/-- MIX_SCALE (R111). -/
def execMixScale (s : State) : Host.Outcome State Fault Refusal := done (mixScale s)

/-- TICK (R113). -/
def execTick (s : State) : Host.Outcome State Fault Refusal := done (finishTick (mixScale (mixAccumulate s)))

end Sys2Proof.Machine
end

