-- ==== Sys2Proof/Machine/Packets.lean ====
section
/-! DEFINITION. The command packets (spec/41_command_packets.md): PKT_GLOBAL, PKT_GENERATOR, PKT_IGNORED; and RESET
(spec/70_reset_and_hazards.md R134). -/

namespace Sys2Proof.Machine

open Sys2Proof

/-- What a generator packet does to the addressed slot (R72, R74): the assignment is overwritten, and a set reset flag zeroes `life`
and `phase`; `latched` is never written. -/
def assignVoice (resetFlag : Byte) (a : Assignment) (v : Voice) : Voice :=
  if flagSet resetFlag then { v with assign := a, life := 0, phase := 0 } else { v with assign := a }

/-- Every state element of the block to its reset value, and undelivered packets dropped (R134, spec/10_state.md R27). -/
def resetBlock (s : State) : State :=
  (((s.setG GlobalState.zero).setV (List.replicate s.cfg.nGenerators Voice.zero)).setWork Work.idle).setLink []

/-- PKT_GLOBAL (R71). -/
def execPktGlobal (r : GlobalRecord) (s : State) : Host.Outcome State Fault Refusal :=
  done (s.setG (storeGlobal s.cfg r))

/-- PKT_GENERATOR (R72). -/
def execPktGenerator (slot : Slot) (rf : Byte) (a : Assignment) (s : State) : Host.Outcome State Fault Refusal :=
  done (s.modifyVoice slot (assignVoice rf a))

/-- PKT_IGNORED (R73). -/
def execPktIgnored (s : State) : Host.Outcome State Fault Refusal := done (discard s)

/-- RESET (R134). -/
def execReset (s : State) : Host.Outcome State Fault Refusal := done (resetBlock s)

end Sys2Proof.Machine
end

