-- ==== Sys2Proof/Machine/Dispatch.lean ====
section
/-! DEFINITION. One arm per operation of spec/opcode_table.json. -/

namespace Sys2Proof.Machine

open Sys2Proof

def exec (i : Instr) (s : State) : Host.Outcome State Fault Refusal :=
  match i with
  | .reset => Sys2Proof.Machine.execReset s
  | .tick => Sys2Proof.Machine.execTick s
  | .pktGlobal r => Sys2Proof.Machine.execPktGlobal r s
  | .pktGenerator slot rf a => Sys2Proof.Machine.execPktGenerator slot rf a s
  | .pktIgnored => Sys2Proof.Machine.execPktIgnored s
  | .waveSquare k => Sys2Proof.Machine.execWaveSquare k s
  | .waveTriangle k => Sys2Proof.Machine.execWaveTriangle k s
  | .waveSawtooth k => Sys2Proof.Machine.execWaveSawtooth k s
  | .waveSine k => Sys2Proof.Machine.execWaveSine k s
  | .waveNone k => Sys2Proof.Machine.execWaveNone k s
  | .envRelease k => Sys2Proof.Machine.execEnvRelease k s
  | .envAttack k => Sys2Proof.Machine.execEnvAttack k s
  | .envDecay k => Sys2Proof.Machine.execEnvDecay k s
  | .envSustain k => Sys2Proof.Machine.execEnvSustain k s
  | .noteToFrequency k => Sys2Proof.Machine.execNoteToFrequency k s
  | .applyPitchBend k => Sys2Proof.Machine.execApplyPitchBend k s
  | .frequencyToWavelength k => Sys2Proof.Machine.execFrequencyToWavelength k s
  | .phaseNormalise k => Sys2Proof.Machine.execPhaseNormalise k s
  | .latchUpdate k => Sys2Proof.Machine.execLatchUpdate k s
  | .voiceScale k => Sys2Proof.Machine.execVoiceScale k s
  | .lifeAdvance k => Sys2Proof.Machine.execLifeAdvance k s
  | .phaseAdvance k => Sys2Proof.Machine.execPhaseAdvance k s
  | .voiceStep k => Sys2Proof.Machine.execVoiceStep k s
  | .mixAccumulate => Sys2Proof.Machine.execMixAccumulate s
  | .mixScale => Sys2Proof.Machine.execMixScale s

end Sys2Proof.Machine
end

