-- ==== Sys2Proof/Machine/ControlPlane.lean ====
section
/-! DEFINITION. The host (control plane) as the block's contract describes it (spec/40_host_control_plane.md): the MIDI event
interpreter, the voice pool and the start-up sequence (spec/70_reset_and_hazards.md R137). It is not part of the block; it acts on the
block only through packets it puts on the link. -/

namespace Sys2Proof.Machine

open Sys2Proof

/-- What a message asks of the host (R57 to R62). -/
inductive MidiMsg where
  /-- Type 0x8 on a channel other than 9 (R59). -/
  | noteOff (ch : BitVec 4) (note vel : Byte)
  /-- Type 0x9 on a channel other than 9 (R60). -/
  | noteOn (ch : BitVec 4) (note vel : Byte)
  /-- Type 0xE on a channel other than 9 (R61). -/
  | pitchBend (ch : BitVec 4) (d1 d2 : Byte)
  /-- `MALFORMED_MIDI` (R57, spec/60_exceptions.md R119). -/
  | malformed
  /-- Channel 9 (R58), or a type the host ignores (R62). -/
  | ignored
deriving DecidableEq, Repr

/-- "every byte after the first must have its high bit clear"; a message of length 0 has no first byte (R57). -/
def midiBytesOk (msg : Packet) : Bool :=
  match msg with
  | [] => false
  | _ :: data => data.all (fun b => !b.msb)

/-- The type nibble (R58). -/
def midiType (msg : Packet) : BitVec 4 := (byteAt msg 0).extractLsb' 4 4

/-- The channel nibble (R58). -/
def midiChannel (msg : Packet) : BitVec 4 := (byteAt msg 0).extractLsb' 0 4

/-- Validation and dispatch of a message (R57, R58, R62). The three consumed types are three bytes long. -/
def parseMidi (msg : Packet) : MidiMsg :=
  if !midiBytesOk msg then .malformed
  else if midiType msg = 0x8 ∨ midiType msg = 0x9 ∨ midiType msg = 0xE then
    if msg.length ≠ 3 then .malformed
    else if midiChannel msg = 9 then .ignored
    else if midiType msg = 0x8 then .noteOff (midiChannel msg) (byteAt msg 1) (byteAt msg 2)
    else if midiType msg = 0x9 then .noteOn (midiChannel msg) (byteAt msg 1) (byteAt msg 2)
    else .pitchBend (midiChannel msg) (byteAt msg 1) (byteAt msg 2)
  else .ignored

/-- `H[j]`. -/
def ControlPlane.entry (h : ControlPlane) (j : Nat) : Assignment := h.table.getD j zeroAssignment

/-- Write `H[j]`. -/
def ControlPlane.setEntry (h : ControlPlane) (j : Nat) (a : Assignment) : ControlPlane :=
  { h with table := h.table.set j a }

/-- The instrument byte of a new note (R60): 0..3, as R68 says of a conforming host. -/
def ControlPlane.instrumentByte (h : ControlPlane) : Byte := BitVec.ofNat 8 h.curInstrument.val

/-- `find_vacant` without its cursor update: the first disabled slot from the cursor on, `n` slots in all (R64). -/
def findVacant (n : Nat) (h : ControlPlane) : Option Nat :=
  ((List.range n).map (fun k => (h.cursor + k) % n)).find? (fun j => !isEnabled (h.entry j))

/-- `find_matching(note, channel)`: the lowest enabled slot that holds the pair (R65). -/
def findMatching (n : Nat) (h : ControlPlane) (note ch : Byte) : Option Nat :=
  (List.range n).find? (fun j =>
    isEnabled (h.entry j) && (h.entry j).noteIndex == note && (h.entry j).channelIndex == ch)

/-- The `GEN` packet of slot `j` with the reset flag set (R59, R60, R69). -/
def genPacket (j : Nat) (a : Assignment) : Packet := encodeGenerator (BitVec.ofNat 16 j) 1 a

/-- What a host procedure does: the host's next state and the packets it sends, in order. -/
abbrev HostResult := ControlPlane × List Packet

/-- Note-off (R59). -/
def noteOff (n : Nat) (h : ControlPlane) (ch : BitVec 4) (note vel : Byte) : HostResult :=
  match findMatching n h note (ch.setWidth 8) with
  | none => (h, [])
  | some j =>
    let old := h.entry j
    let a := { old with enabled := 0, velocity := if vel ≠ 0 then vel else old.velocity }
    (h.setEntry j a, [genPacket j a])

/-- Note-on with a non-zero velocity (R60). The same pair enabled in another slot is not looked for, so R56 needs the precondition
`Event.BringsNewPair` of spec/93_implementation_defined.md U17 (log 11). -/
def allocate (n : Nat) (h : ControlPlane) (ch : BitVec 4) (note vel : Byte) : HostResult :=
  match findVacant n h with
  | none => (h, [])
  | some j =>
    let a : Assignment :=
      { enabled := 1
        instrument := h.instrumentByte
        noteIndex := note
        channelIndex := ch.setWidth 8
        velocity := vel }
    ({ h.setEntry j a with cursor := (j + 1) % n }, [genPacket j a])

/-- Note-on; velocity 0 is a note-off (R60). -/
def noteOn (n : Nat) (h : ControlPlane) (ch : BitVec 4) (note vel : Byte) : HostResult :=
  if vel = 0 then noteOff n h ch note vel else allocate n h ch note vel

/-- The rescaled bend of R61: low data byte first, centred at 8192, divided by 64 with floor (log 14). -/
def rescaleBend (d1 d2 : Byte) : Byte := BitVec.ofInt 8 (((d1.toNat + 128 * d2.toNat : Nat) - 8192 : Int) / 64)

/-- Pitch-bend (R61). -/
def pitchBend (h : ControlPlane) (ch : BitVec 4) (d1 d2 : Byte) : HostResult :=
  let r := { h.globals with pitchBend := h.globals.pitchBend.set ch.toNat (rescaleBend d1 d2) }
  ({ h with globals := r }, [encodeGlobal r])

/-- The MIDI event interpreter (R57 to R62). -/
def midiMessage (n : Nat) (h : ControlPlane) (msg : Packet) : HostResult :=
  match parseMidi msg with
  | .noteOff ch note vel => noteOff n h ch note vel
  | .noteOn ch note vel => noteOn n h ch note vel
  | .pitchBend ch d1 d2 => pitchBend h ch d1 d2
  | .malformed => (h, [])
  | .ignored => (h, [])

/-- The `GEN` packets of step 2 of R137: every slot with `en=0`, `reset=1`. R137 gives neither the order of the slots nor the other
fields: ascending slot order and the host's own records are the model's choice (DESIGN CHOICE, log 15). -/
def syncPackets (n : Nat) (h : ControlPlane) : List Packet :=
  (List.range n).map (fun j => genPacket j { h.entry j with enabled := 0 })

/-- The host starts, or restarts alone (R137, R138): its table all disabled, its cursor 0 (R55), one `GLOBAL` packet sent, then
the synchronising `GEN` packets if it chooses to send them. -/
def hostStart (n : Nat) (h : ControlPlane) (r : GlobalRecord) (sync : Bool) : HostResult :=
  let h' : ControlPlane :=
    { globals := r, table := List.replicate n zeroAssignment, cursor := 0, curInstrument := h.curInstrument }
  (h', encodeGlobal r :: (if sync then syncPackets n h' else []))

/-- The host's master volume and envelope change; it sends the whole GlobalState (R67, R68). -/
def hostSet (h : ControlPlane) (masterVolume : Byte) (env : EnvRecord) : HostResult :=
  let r := { h.globals with masterVolume := masterVolume, env := env }
  ({ h with globals := r }, [encodeGlobal r])

/-- A host procedure's result in the state: the host changes and its packets go on the link. -/
def State.hostDoes (s : State) (r : HostResult) : State := (s.setControl r.1).send r.2

end Sys2Proof.Machine
end

