-- ==== Sys2Proof/Machine/Validity.lean ====
section
/-! DEFINITION. The constraints on `CFG` (spec/00_scope.md R8), and no others: the clear form, `Cfg.MeetsR8`, and the Boolean the step evaluates,
`Cfg.valid`, which tries the two extreme bends instead of all 256. An obligation states that the two agree. -/

namespace Sys2Proof

open Sys2Proof.Machine

/-- Frequency of note `n` at bend `b`. -/
def Cfg.bent (c : Cfg) (n : Nat) (b : Int) : Nat := bendFrequency c (noteFreqAt c n) b

/-- R8 items 1 to 8, and nothing else (spec/60_exceptions.md R117: no other configuration is refused). The three formulas with
`2^(W-1)` are doubled, so that a width of 0, for which `2^(W-1)` is no integer, fails them as it should. A table may hold entries
beyond those its index reaches; an entry that is absent meets no bound (log 7). -/
def Cfg.MeetsR8 (c : Cfg) : Prop :=
  (1 ≤ c.nGenerators ∧ c.nGenerators ≤ 65536) ∧
  1 ≤ c.lifeScale ∧
  (∀ n < 128, 1 ≤ noteFreqAt c n) ∧
  (c.bendLinearOffset = 2 ^ c.bendShift ∧ 128 * c.bendLinearScale < c.bendLinearOffset) ∧
  (∀ n < 128, ∀ b : Int, -128 ≤ b → b ≤ 127 →
    1 ≤ c.bent n b ∧ 1 ≤ wavelengthOf c (c.bent n b) ∧ wavelengthOf c (c.bent n b) + c.lifeScale < 2 ^ c.phaseW) ∧
  (2 * (c.sampleMax + 1) = 2 ^ c.sampleW ∧ c.envFull + 1 = 2 ^ c.levelW ∧ c.velocityMax = 127) ∧
  (2 * (c.nGenerators * c.sampleMax + 1) ≤ 2 ^ c.accW ∧
    2 * (c.nGenerators * c.sampleMax * 255 * 2 ^ c.headroomShift + 1) ≤ 2 ^ c.outW) ∧
  (1 ≤ c.sineLutSize ∧
    ∀ k < c.sineLutSize, ∃ x, c.sineLut[k]? = some x ∧ -(c.sampleMax : Int) ≤ x ∧ x ≤ c.sampleMax)

/-- R8 items 3 and 5 for one note, item 5 at the two extreme bends: the lowest frequency is not zero and the longest wavelength
fits; the shortest wavelength is not zero. -/
def Cfg.noteOk (c : Cfg) (n : Nat) : Bool :=
  decide (1 ≤ noteFreqAt c n) &&
  decide (1 ≤ c.bent n (-128)) &&
  decide (wavelengthOf c (c.bent n (-128)) + c.lifeScale < 2 ^ c.phaseW) &&
  decide (1 ≤ wavelengthOf c (c.bent n 127))

/-- R8 as the step checks it. -/
def Cfg.valid (c : Cfg) : Bool :=
  (decide (1 ≤ c.nGenerators) && decide (c.nGenerators ≤ 65536)) &&
  decide (1 ≤ c.lifeScale) &&
  (decide (c.bendLinearOffset = 2 ^ c.bendShift) && decide (128 * c.bendLinearScale < c.bendLinearOffset)) &&
  (List.range 128).all c.noteOk &&
  (decide (2 * (c.sampleMax + 1) = 2 ^ c.sampleW) && decide (c.envFull + 1 = 2 ^ c.levelW) &&
    decide (c.velocityMax = 127)) &&
  (decide (2 * (c.nGenerators * c.sampleMax + 1) ≤ 2 ^ c.accW) &&
    decide (2 * (c.nGenerators * c.sampleMax * 255 * 2 ^ c.headroomShift + 1) ≤ 2 ^ c.outW)) &&
  (decide (1 ≤ c.sineLutSize) && decide (c.sineLutSize ≤ c.sineLut.length) &&
    (c.sineLut.take c.sineLutSize).all (fun x => decide (-(c.sampleMax : Int) ≤ x) && decide (x ≤ c.sampleMax)))

/-- `x` is `REF_FREQ_HZ * 2^((n - REF_NOTE)/12) * 2^FREQ_SHIFT` rounded to the nearest integer (R77): in twelfth powers, with
both sides scaled by 24 and by `2^REF_NOTE`, so that no root is taken. -/
def Cfg.isRoundedNote (c : Cfg) (n x : Nat) : Prop :=
  (2 * x - 1) ^ 12 * 2 ^ c.refNote ≤ (2 * (c.refFreqHz * 2 ^ c.freqShift)) ^ 12 * 2 ^ n ∧
  (2 * (c.refFreqHz * 2 ^ c.freqShift)) ^ 12 * 2 ^ n < (2 * x + 1) ^ 12 * 2 ^ c.refNote

/-- `BEND_LINEAR_SCALE` is `(2^(BEND_SEMITONES/12) - 1) * 2^BEND_SHIFT / 128` rounded to the nearest integer (R80): multiplied by
256, moved over and raised to the twelfth power. -/
def Cfg.isRoundedScale (c : Cfg) : Prop :=
  (2 * 2 ^ c.bendShift + 256 * c.bendLinearScale - 128) ^ 12 ≤ 2 ^ c.bendSemitones * (2 * 2 ^ c.bendShift) ^ 12 ∧
  2 ^ c.bendSemitones * (2 * 2 ^ c.bendShift) ^ 12 < (2 * 2 ^ c.bendShift + 256 * c.bendLinearScale + 128) ^ 12

end Sys2Proof
end

