-- ==== Sys2Proof/Machine/Fetch.lean ====
section
/-! DEFINITION. What stands in the place of fetching an instruction: taking the next event of the serialised sequence
(spec/10_state.md R24, spec/20_memory.md R36). An event of the block selects one operation; an event of the host acts on the host. -/

namespace Sys2Proof.Machine

open Sys2Proof

/-- What one event selects: an operation of the block, or none, and the state in which it runs. -/
abbrev Taken := Option Instr × State

/-- The link hands over its oldest packet, if it holds one (R36 (a)). -/
def deliverNext (s : State) : Taken :=
  match s.link with
  | [] => (none, s)
  | p :: ps => (some (decode s.cfg p), s.setLink ps)

/-- One event (R36, spec/60_exceptions.md R131). -/
def takeEvent (e : Event) (s : State) : Taken :=
  match e with
  | .reset => (some .reset, s)
  | .tick => (some .tick, s)
  | .cmd pkt => (some (decode s.cfg pkt), s)
  | .deliver => deliverNext s
  | .midi msg => (none, s.hostDoes (midiMessage s.cfg.nGenerators s.control msg))
  | .hostStart r sync => (none, s.hostDoes (hostStart s.cfg.nGenerators s.control r sync))
  | .hostSet vol env => (none, s.hostDoes (hostSet s.control vol env))

/-- Take the next event; with none to come the block holds its state (spec/60_exceptions.md R132). -/
def takeNext (s : State) : Taken :=
  match s.inputs with
  | [] => (none, s)
  | e :: es => takeEvent e (s.setInputs es)

/-- Put an event before all others, so that the next step takes it. -/
def State.withEvent (s : State) (e : Event) : State := s.setInputs (e :: s.inputs)

end Sys2Proof.Machine
end

