-- ==== Sys2Proof/Machine/Step.lean ====
section
/-! DEFINITION. One step: a configuration that breaks R8 is refused (spec/60_exceptions.md R117); otherwise the next event is taken
and the operation it selects is run to completion (spec/20_memory.md R36). -/

namespace Sys2Proof.Machine

open Sys2Proof

def step (s : State) : Host.Outcome State Fault Refusal :=
  if s.cfg.valid then
    match takeNext s with
    | (some i, t) => exec i t
    | (none, t) => .next t
  else .refused .badConfiguration

/-- The state with a table word's packet as the next thing to reach the block (log 3, log 4). -/
def State.withFetchWord (s : State) (nbits w : Nat) : State := s.withEvent (.cmd (tablePacket nbits w))

end Sys2Proof.Machine
end

