-- ==== Sys2Proof/Safety.lean ====
section
/-! DEFINITION. The terms claims are stated in: the ranges of every register (spec/10_state.md section 1 and 2) as one invariant of the
machine, the program of a voice step (spec/45_mixer_and_tick.md R109), a quiet block (spec/70_reset_and_hazards.md R135), and the
agreement of the two planes (spec/10_state.md R15, R11). A safe run is one in which every step answers a next state and the
invariant holds. -/

namespace Sys2Proof.Machine

open Sys2Proof

/-- The registers of a voice lie in their widths, the latched level in `0 .. ENV_FULL` (R12, R13, R14). -/
def Voice.InRange (c : Cfg) (v : Voice) : Prop :=
  v.life < 2 ^ c.lifeW ∧ v.phase < 2 ^ c.phaseW ∧ v.latched ≤ c.envFull

/-- The envelope lies in its widths, the sustain level in `0 .. ENV_FULL` (R17). -/
def Envelope.InRange (c : Cfg) (e : Envelope) : Prop :=
  e.attack < 2 ^ c.durW ∧ e.decay < 2 ^ c.durW ∧ e.sustain ≤ c.envFull ∧ e.release < 2 ^ c.durW

/-- An `OUT_W`-bit signed value (R112). -/
def OutInRange (c : Cfg) (x : Int) : Prop := -(2 ^ (c.outW - 1) : Nat) ≤ x ∧ x < (2 ^ (c.outW - 1) : Nat)

/-- The ranges of R55 and R68 for a record the host holds or sends: a flag of 0 or 1, an instrument 0..3, a note and a velocity
0..127, a channel 0..15 other than 9. -/
def RecordConforms (a : Assignment) : Prop :=
  a.enabled.toNat ≤ 1 ∧ a.instrument.toNat ≤ 3 ∧ a.noteIndex.toNat ≤ 127 ∧
    (a.channelIndex.toNat ≤ 15 ∧ a.channelIndex.toNat ≠ 9) ∧ a.velocity.toNat ≤ 127

/-- The host's table has `n` records in their ranges, and its cursor names a slot (R55, R68). -/
def ControlPlane.Conforms (n : Nat) (h : ControlPlane) : Prop :=
  h.table.length = n ∧ h.cursor < n ∧ ∀ a ∈ h.table, RecordConforms a

/-- R56, the allocation invariant: "multiple slots never share the same (note,channel) pair while both show enabled=true". -/
def ControlPlane.PairsUnique (n : Nat) (h : ControlPlane) : Prop :=
  ∀ j k : Nat, j < n → k < n → isEnabled (h.entry j) = true → isEnabled (h.entry k) = true →
    (h.entry j).noteIndex = (h.entry k).noteIndex → (h.entry j).channelIndex = (h.entry k).channelIndex → j = k

/-- The precondition on the MIDI stream under which R56 is kept (spec/93_implementation_defined.md U17; log 11): a note-on brings no
(note, channel) that is already enabled. -/
def Event.BringsNewPair (n : Nat) (h : ControlPlane) (e : Event) : Prop :=
  ∀ msg ch note vel, e = .midi msg → parseMidi msg = .noteOn ch note vel → vel ≠ 0 →
    findMatching n h note (ch.setWidth 8) = none

/-- A packet of a conforming host (R68): format G of exactly 31 bytes, or format V of exactly 9 for a slot that exists, with the
reset flag set and a record in its ranges. -/
def ConformingPacket (n : Nat) (p : Packet) : Prop :=
  (∃ r, p = encodeGlobal r) ∨
    ∃ (j : Nat) (a : Assignment), j < n ∧ RecordConforms a ∧ p = encodeGenerator (BitVec.ofNat 16 j) 1 a

/-- What holds between events: a valid configuration (R8), `N_GENERATORS` slots on each plane (R10, R55), every register in its
range, the host conforming (R55, R68), no working value kept (R21), and only `OUT_W`-bit samples emitted (R112). -/
def State.Inv (s : State) : Prop :=
  s.cfg.valid = true ∧
  s.v.length = s.cfg.nGenerators ∧
  (∀ v ∈ s.v, v.InRange s.cfg) ∧
  s.g.env.InRange s.cfg ∧
  s.work = Work.idle ∧
  s.control.Conforms s.cfg.nGenerators ∧
  ∀ x ∈ s.emitted, OutInRange s.cfg x

/-- The envelope step that a voice's state selects (R54, R100). -/
def envInstr (k : EnvState) (i : Slot) : Instr :=
  match k with
  | .release => .envRelease i
  | .attack => .envAttack i
  | .decay => .envDecay i
  | .sustain => .envSustain i

/-- The steps of `voice_step(i)` in the order of R109, the waveform and envelope steps being the selected ones. -/
def voiceProgram (wave env : Slot → Instr) (i : Slot) : List Instr :=
  [.noteToFrequency i, .applyPitchBend i, .frequencyToWavelength i, .phaseNormalise i, wave i, env i,
   .latchUpdate i, .voiceScale i, .lifeAdvance i, .phaseAdvance i]

/-- Run operations one after another. -/
def execAll : List Instr → State → Host.Outcome State Fault Refusal
  | [], s => .next s
  | i :: is, s =>
    match exec i s with
    | .next t => execAll is t
    | .fault r => .fault r
    | .refused r => .refused r

/-- The operations an event of the block can select; the others are steps inside `TICK` (R2, R54). -/
def selectedByEvent : Instr → Bool
  | .reset => true
  | .tick => true
  | .pktGlobal _ => true
  | .pktGenerator _ _ _ => true
  | .pktIgnored => true
  | _ => false

/-- No voice can sound: each is disabled with nothing latched (R135, R101). -/
def State.Quiet (s : State) : Prop := ∀ v ∈ s.v, isEnabled v.assign = false ∧ v.latched = 0

/-- The block after every packet now on the link has been applied, in order. -/
def afterLink (s : State) : List Packet → State
  | [] => s
  | p :: ps =>
    match exec (decode s.cfg p) s with
    | .next t => afterLink t ps
    | .fault _ => s
    | .refused _ => s

/-- The two planes agree up to packets in flight: once those are applied, the replica is the host's GlobalState and every slot
holds the host's assignment (R15, R11, R52). -/
def State.Agrees (s : State) : Prop :=
  (afterLink s s.link).g = storeGlobal s.cfg s.control.globals ∧
  (afterLink s s.link).v.map (·.assign) = s.control.table

end Sys2Proof.Machine
end

