-- ==== Sys2Proof/Certificates/Slice0/Obligations.lean ====
section
/-! DEFINITION. The statements for the provers. Each formalises a rule of spec/, or follows from the rules named. Statements over all
states quantify over every configuration, since the configuration is a field of the state. -/

open Sys2Proof Sys2Proof.Machine

/-! ### Encoding -/

/-- R52: what the encoder lays out is what the decoder reads, for both packet kinds, whatever bytes follow; and for every
well-formed operation that a packet selects. -/
def Obligations.DecodeInvertsEncode : Prop :=
  ∀ c : Cfg,
    (∀ r extra, decode c (encodeGlobal r ++ extra) = .pktGlobal r) ∧
    (∀ slot rf a extra, slotValid c slot = true →
      decode c (encodeGenerator slot rf a ++ extra) = .pktGenerator slot rf a) ∧
    (∀ i p, i.wf c = true → encode i = some p → decode c p = i)

/-- R52, R41, R42, R29: an accepted packet begins with the encoding of the operation it decodes to, so no byte of the record is
dropped; and whatever the packet, the decoder names only slots that exist. -/
def Obligations.AcceptedPacketStartsWithItsEncoding : Prop :=
  ∀ c pkt,
    (∀ i, classify c pkt = .ok i → ∃ p, encode i = some p ∧ p <+: pkt ∧ (p.length = 31 ∨ p.length = 9)) ∧
    (decode c pkt).wf c = true

/-- R51: the complete classification of a received packet. -/
def Obligations.PacketClassification : Prop :=
  ∀ c pkt,
    (pkt.length = 0 → decode c pkt = .pktIgnored) ∧
    (1 ≤ pkt.length → byteAt pkt 0 = 1 → pkt.length < 31 → decode c pkt = .pktIgnored) ∧
    (byteAt pkt 0 = 1 → 31 ≤ pkt.length → decode c pkt = .pktGlobal (readGlobal pkt)) ∧
    (1 ≤ pkt.length → byteAt pkt 0 = 2 → pkt.length < 9 → decode c pkt = .pktIgnored) ∧
    (byteAt pkt 0 = 2 → 9 ≤ pkt.length → c.nGenerators ≤ (byteAt pkt 1).toNat + 256 * (byteAt pkt 2).toNat →
      decode c pkt = .pktIgnored) ∧
    (byteAt pkt 0 = 2 → 9 ≤ pkt.length → (byteAt pkt 1).toNat + 256 * (byteAt pkt 2).toNat < c.nGenerators →
      decode c pkt = .pktGenerator (le16 pkt 1) (byteAt pkt 3) (readAssignment pkt)) ∧
    (1 ≤ pkt.length → byteAt pkt 0 ≠ 1 → byteAt pkt 0 ≠ 2 → decode c pkt = .pktIgnored)

/-- R33: the low byte of the slot index is at offset 1, and each duration has its least significant byte lowest. -/
def Obligations.FieldsAreLittleEndian : Prop :=
  ∀ pkt : Packet,
    (le16 pkt 1).toNat = (byteAt pkt 1).toNat + 256 * (byteAt pkt 2).toNat ∧
    (readGlobal pkt).env.attack.toNat =
      (byteAt pkt 2).toNat + 2 ^ 8 * (byteAt pkt 3).toNat + 2 ^ 16 * (byteAt pkt 4).toNat +
        2 ^ 24 * (byteAt pkt 5).toNat ∧
    (readGlobal pkt).env.decay.toNat =
      (byteAt pkt 6).toNat + 2 ^ 8 * (byteAt pkt 7).toNat + 2 ^ 16 * (byteAt pkt 8).toNat +
        2 ^ 24 * (byteAt pkt 9).toNat ∧
    (readGlobal pkt).env.release.toNat =
      (byteAt pkt 11).toNat + 2 ^ 8 * (byteAt pkt 12).toNat + 2 ^ 16 * (byteAt pkt 13).toNat +
        2 ^ 24 * (byteAt pkt 14).toNat

/-- A few packets written out from spec/95_test_vectors.md section 2.2 (T-PKT-1, 2, 3, 4, 10, 12). -/
def Obligations.SpecPacketsDecode : Prop :=
  decode Cfg.reference
      [0x01, 0xC8, 0x10, 0x27, 0x00, 0x00, 0xE8, 0x03, 0x00, 0x00, 0xB4, 0x88, 0x13, 0x00, 0x00, 0x00, 0x01, 0xFF,
       0x80, 0x7F, 0, 0, 0, 0, 0, 0, 0, 0, 0, 0, 0] =
    .pktGlobal ⟨200, ⟨10000, 1000, 180, 5000⟩, #v[0, 1, -1, -128, 127, 0, 0, 0, 0, 0, 0, 0, 0, 0, 0, 0]⟩ ∧
  decode Cfg.reference [0x02, 0x0F, 0x00, 0x00, 0x01, 0x03, 0x45, 0x0A, 0x64] =
    .pktGenerator 15 0 ⟨1, 3, 0x45, 10, 100⟩ ∧
  decode Cfg.reference [0x02, 0x10, 0x00, 0x01, 0x01, 0x00, 0x3A, 0x00, 0x7F] = .pktIgnored ∧
  decode Cfg.reference [0x02, 0x00, 0x01, 0x01, 0x01, 0x00, 0x3A, 0x00, 0x7F] = .pktIgnored ∧
  decode Cfg.reference [0x02, 0x0F, 0x00, 0x00, 0x01, 0x03, 0x45, 0x0A, 0x64, 0xDE, 0xAD] =
    .pktGenerator 15 0 ⟨1, 3, 0x45, 10, 100⟩ ∧
  decode Cfg.reference [0x02, 0x00, 0x00, 0x02, 0x00, 0x07, 0xFF, 0x19, 0xFF] =
    .pktGenerator 0 2 ⟨0, 7, 0xFF, 0x19, 0xFF⟩

/-- R48: the instrument selector codes (decision D17). -/
def Obligations.InstrumentSelectorCodes : Prop :=
  ∀ i : Slot,
    decodeSelector 0 i = .waveSquare i ∧ decodeSelector 1 i = .waveTriangle i ∧
    decodeSelector 2 i = .waveSawtooth i ∧ decodeSelector 3 i = .waveSine i ∧
    ∀ b : Byte, 4 ≤ b.toNat → decodeSelector b i = .waveNone i

/-! ### Packets and reset -/

/-- PKT_GLOBAL completes in every state and overwrites all of `G`, nothing else. A register narrower than its field keeps the low
bits: the model's reading (log 8). -/
def Obligations.GlobalRecordOverwritesG : Prop :=
  ∀ (s : State) (r : GlobalRecord),
    exec (.pktGlobal r) s =
      .next { s with
        g :=
          { masterVolume := r.masterVolume
            env :=
              { attack := r.env.attack.toNat % 2 ^ s.cfg.durW
                decay := r.env.decay.toNat % 2 ^ s.cfg.durW
                sustain := r.env.sustain.toNat % 2 ^ s.cfg.levelW
                release := r.env.release.toNat % 2 ^ s.cfg.durW }
            pitchBend := r.pitchBend } }

/-- R71: a format G packet sets every field of `G` to the value its bytes transmit, in registers that hold the fields, and
touches nothing else. -/
def Obligations.GlobalPacketSetsEveryField : Prop :=
  ∀ (s : State) (pkt : Packet),
    byteAt pkt 0 = 1 → 31 ≤ pkt.length → 32 ≤ s.cfg.durW → 8 ≤ s.cfg.levelW →
    ∃ g : GlobalState,
      exec (decode s.cfg pkt) s = .next { s with g := g } ∧
      g.masterVolume = byteAt pkt 1 ∧
      g.env.attack =
        (byteAt pkt 2).toNat + 2 ^ 8 * (byteAt pkt 3).toNat + 2 ^ 16 * (byteAt pkt 4).toNat +
          2 ^ 24 * (byteAt pkt 5).toNat ∧
      g.env.decay =
        (byteAt pkt 6).toNat + 2 ^ 8 * (byteAt pkt 7).toNat + 2 ^ 16 * (byteAt pkt 8).toNat +
          2 ^ 24 * (byteAt pkt 9).toNat ∧
      g.env.sustain = (byteAt pkt 10).toNat ∧
      g.env.release =
        (byteAt pkt 11).toNat + 2 ^ 8 * (byteAt pkt 12).toNat + 2 ^ 16 * (byteAt pkt 13).toNat +
          2 ^ 24 * (byteAt pkt 14).toNat ∧
      ∀ ch : Fin 16,
        bendAt g ch =
          if (byteAt pkt (15 + ch)).toNat < 128 then ((byteAt pkt (15 + ch)).toNat : Int)
          else ((byteAt pkt (15 + ch)).toNat : Int) - 256

/-- R72, R74: a generator packet overwrites the five assignment bytes of the addressed slot with its bytes 4 to 8, zeroes `life` and
`phase` exactly when its byte 3 is non-zero, never writes `latched`, and touches nothing else. -/
def Obligations.GeneratorPacketWritesOneSlot : Prop :=
  ∀ (s : State) (i : Slot) (v : Voice), slotValid s.cfg i = true → s.v[i.toNat]? = some v →
    (∀ rf a,
      exec (.pktGenerator i rf a) s =
        .next { s with
          v := s.v.set i.toNat
            { assign := a
              life := if rf = 0 then v.life else 0
              phase := if rf = 0 then v.phase else 0
              latched := v.latched } }) ∧
    ∀ pkt : Packet, byteAt pkt 0 = 2 → 9 ≤ pkt.length →
      i.toNat = (byteAt pkt 1).toNat + 256 * (byteAt pkt 2).toNat →
      decode s.cfg pkt =
        .pktGenerator i (byteAt pkt 3)
          { enabled := byteAt pkt 4
            instrument := byteAt pkt 5
            noteIndex := byteAt pkt 6
            channelIndex := byteAt pkt 7
            velocity := byteAt pkt 8 }

/-- R73, R75: every packet of the five ignored classes completes with the state unchanged. -/
def Obligations.IgnoredPacketsChangeNothing : Prop :=
  ∀ s : State,
    exec .pktIgnored s = .next s ∧
    ∀ pkt : Packet,
      (pkt.length = 0 ∨ (byteAt pkt 0 ≠ 1 ∧ byteAt pkt 0 ≠ 2) ∨ (byteAt pkt 0 = 1 ∧ pkt.length < 31) ∨
        (byteAt pkt 0 = 2 ∧ pkt.length < 9) ∨
        (byteAt pkt 0 = 2 ∧ s.cfg.nGenerators ≤ (byteAt pkt 1).toNat + 256 * (byteAt pkt 2).toNat)) →
      exec (decode s.cfg pkt) s = .next s

/-- R134, R27: RESET completes in every state; every element of the block takes its reset value (the spec's decision D27), packets
in flight are dropped (the model's reading, log 9), and the surroundings stay. -/
def Obligations.ResetClearsTheBlock : Prop :=
  ∀ s : State,
    exec .reset s =
      .next { s with
        g := { masterVolume := 0, env := ⟨0, 0, 0, 0⟩, pitchBend := Vector.replicate 16 0 }
        v := List.replicate s.cfg.nGenerators ⟨⟨0, 0, 0, 0, 0⟩, 0, 0, 0⟩
        work := Work.idle
        link := [] }

/-! ### Frequency and phase -/

/-- R77, R79, R81, R82: the three frequency steps complete on every slot that exists and write one working value each. In a
configuration that violates R8 the values 0 for an absent table entry and for a negative bend product are the model's fallbacks
(log 18). -/
def Obligations.FrequencySteps : Prop :=
  ∀ (s : State) (i : Slot) (v : Voice), slotValid s.cfg i = true → s.v[i.toNat]? = some v →
    exec (.noteToFrequency i) s =
      .next { s with work := { s.work with noteFreq := s.cfg.noteFreq.getD (v.assign.noteIndex.toNat % 128) 0 } } ∧
    (∀ ch : Fin 16, ch.val = v.assign.channelIndex.toNat % 16 →
      exec (.applyPitchBend i) s =
        .next { s with
          work := { s.work with
            freq :=
              ((s.work.noteFreq : Int) *
                (s.g.pitchBend[ch].toInt * s.cfg.bendLinearScale + s.cfg.bendLinearOffset) /
                (2 ^ s.cfg.bendShift : Nat)).toNat } }) ∧
    exec (.frequencyToWavelength i) s =
      .next { s with
        work := { s.work with
          wavelength :=
            if s.work.freq = 0 then 0
            else s.cfg.sampleRate * 2 ^ s.cfg.freqShift * s.cfg.lifeScale / s.work.freq } }

/-- R79, R80: a zero bend leaves every frequency as it is. -/
def Obligations.ZeroBendIsIdentity : Prop :=
  ∀ (c : Cfg) (f : Nat), c.bendLinearOffset = 2 ^ c.bendShift → bendFrequency c f 0 = f

/-- R86: `phase_advance` completes on every slot that exists; the phase advances by the increment and wraps to zero, not to the
overshoot. -/
def Obligations.PhaseAdvanceWrapsToZero : Prop :=
  ∀ (s : State) (i : Slot) (v : Voice), slotValid s.cfg i = true → s.v[i.toNat]? = some v →
    exec (.phaseAdvance i) s =
      .next { s with
        v := s.v.set i.toNat
          { v with
            phase :=
              if s.work.wavelength ≤ v.phase + s.cfg.lifeScale then 0 else v.phase + s.cfg.lifeScale } }

/-- R87, R85: `phase_normalise` and `life_advance` complete on every slot that exists and write one register each. -/
def Obligations.NormaliseAndLifeSteps : Prop :=
  ∀ (s : State) (i : Slot) (v : Voice), slotValid s.cfg i = true → s.v[i.toNat]? = some v →
    exec (.phaseNormalise i) s =
      .next { s with
        v := s.v.set i.toNat { v with phase := if s.work.wavelength ≤ v.phase then 0 else v.phase } } ∧
    exec (.lifeAdvance i) s =
      .next { s with
        v := s.v.set i.toNat { v with life := (v.life + s.cfg.lifeScale) % 2 ^ s.cfg.lifeW } }

/-! ### Waveforms -/

/-- R91 to R97: each waveform step, on a slot whose instrument byte selects it, completes and writes the sample of its formula at the
normalised phase `p`; a zero wavelength gives 0. The value 0 of an absent sine entry, which only a configuration that violates R8
can reach, is the model's fallback (log 18). -/
def Obligations.WaveformSteps : Prop :=
  ∀ (s : State) (i : Slot) (v : Voice) (p w : Nat), slotValid s.cfg i = true → s.v[i.toNat]? = some v →
    w = s.work.wavelength → p = (if w ≤ v.phase then 0 else v.phase) →
    (v.assign.instrument = 0 →
      exec (.waveSquare i) s =
        .next { s with work := { s.work with
          wave := if w = 0 then 0 else if p < w / 2 then (s.cfg.sampleMax : Int) else -(s.cfg.sampleMax : Int) } }) ∧
    (v.assign.instrument = 1 →
      exec (.waveTriangle i) s =
        .next { s with work := { s.work with
          wave :=
            if w = 0 then 0
            else (4 * s.cfg.sampleMax : Int) * min (p : Int) ((w : Int) - p) / w - s.cfg.sampleMax } }) ∧
    (v.assign.instrument = 2 →
      exec (.waveSawtooth i) s =
        .next { s with work := { s.work with
          wave := if w = 0 then 0 else (2 * s.cfg.sampleMax : Int) * p / w - s.cfg.sampleMax } }) ∧
    (v.assign.instrument = 3 →
      exec (.waveSine i) s =
        .next { s with work := { s.work with
          wave := if w = 0 then 0 else s.cfg.sineLut.getD (p * s.cfg.sineLutSize / w) 0 } }) ∧
    (4 ≤ v.assign.instrument.toNat →
      exec (.waveNone i) s = .next { s with work := { s.work with wave := 0 } })

/-- R91: the selector picks the waveform, a zero wavelength or an unknown selector gives 0, and every sample of a valid configuration
lies in `[-SAMPLE_MAX, SAMPLE_MAX]`. -/
def Obligations.WaveformDispatchAndRange : Prop :=
  ∀ (c : Cfg) (k : Byte) (p w : Nat), (w = 0 ∨ p < w) →
    (w = 0 → wave c k p w = 0) ∧
    (1 ≤ w →
      (k = 0 → wave c k p w = square c p w) ∧ (k = 1 → wave c k p w = triangle c p w) ∧
      (k = 2 → wave c k p w = sawtooth c p w) ∧ (k = 3 → wave c k p w = sine c p w) ∧
      (4 ≤ k.toNat → wave c k p w = 0)) ∧
    (c.valid = true → -(c.sampleMax : Int) ≤ wave c k p w ∧ wave c k p w ≤ c.sampleMax)

/-! ### Envelope -/

/-- R100 to R103: each ramp step, on a voice whose flag and elapsed time select it, completes and writes the level of its formula.
For a sustain level above `ENV_FULL`, which the invariant rules out, the difference counts as 0: the model's fallback (log 18). -/
def Obligations.EnvelopeRampSteps : Prop :=
  ∀ (s : State) (i : Slot) (v : Voice) (t : Nat), slotValid s.cfg i = true → s.v[i.toNat]? = some v →
    t = v.life / s.cfg.lifeScale →
    (v.assign.enabled = 0 →
      exec (.envRelease i) s =
        .next { s with work := { s.work with
          level := if t < s.g.env.release then v.latched * (s.g.env.release - t) / s.g.env.release else 0 } }) ∧
    (v.assign.enabled ≠ 0 → t < s.g.env.attack →
      exec (.envAttack i) s =
        .next { s with work := { s.work with level := s.cfg.envFull * t / s.g.env.attack } }) ∧
    (v.assign.enabled ≠ 0 → s.g.env.attack ≤ t → t < s.g.env.attack + s.g.env.decay →
      exec (.envDecay i) s =
        .next { s with work := { s.work with
          level :=
            s.cfg.envFull - (s.cfg.envFull - s.g.env.sustain) * (t - s.g.env.attack) / s.g.env.decay } })

/-- R104: in Sustain the step completes and the level is the sustain level. -/
def Obligations.SustainStep : Prop :=
  ∀ (s : State) (i : Slot) (v : Voice), slotValid s.cfg i = true → s.v[i.toNat]? = some v →
    v.assign.enabled ≠ 0 → s.g.env.attack + s.g.env.decay ≤ v.life / s.cfg.lifeScale →
    exec (.envSustain i) s = .next { s with work := { s.work with level := s.g.env.sustain } }

/-- R98: the level lies in `0 .. ENV_FULL` (a level is a natural number). -/
def Obligations.EnvelopeLevelRange : Prop :=
  ∀ (c : Cfg) (en : Bool) (t latched : Nat) (e : Envelope), latched ≤ c.envFull → e.sustain ≤ c.envFull →
    envLevel c en t latched e ≤ c.envFull

/-- R101 to R103: the release ramp starts at the latched level, never rises and ends at zero; the attack ramp starts at zero and never
falls; the decay ramp starts at full scale, never rises and never falls below the sustain level. -/
def Obligations.RampShapes : Prop :=
  ∀ (c : Cfg) (e : Envelope) (L t t' : Nat), t ≤ t' →
    (1 ≤ e.release → envLevel c false 0 L e = L) ∧
    envLevel c false t' L e ≤ envLevel c false t L e ∧
    (e.release ≤ t → envLevel c false t L e = 0) ∧
    (1 ≤ e.attack → envLevel c true 0 L e = 0) ∧
    (t' < e.attack → envLevel c true t L e ≤ envLevel c true t' L e) ∧
    (1 ≤ e.decay → envLevel c true e.attack L e = c.envFull) ∧
    (e.sustain ≤ c.envFull → e.attack ≤ t → t' < e.attack + e.decay →
      envLevel c true t' L e ≤ envLevel c true t L e ∧ e.sustain ≤ envLevel c true t' L e)

/-- R105: `latch_update` completes on every slot that exists; it stores the level of an enabled voice and leaves a disabled voice alone. -/
def Obligations.LatchUpdateStep : Prop :=
  ∀ (s : State) (i : Slot) (v : Voice), slotValid s.cfg i = true → s.v[i.toNat]? = some v →
    (v.assign.enabled ≠ 0 →
      exec (.latchUpdate i) s = .next { s with v := s.v.set i.toNat { v with latched := s.work.level } }) ∧
    (v.assign.enabled = 0 → exec (.latchUpdate i) s = .next s)

/-- R107: with nothing between them but the note-off packet, the last level of an enabled voice is the level its release starts from
(and 0 when the release duration is 0). -/
def Obligations.EnvelopeContinuity : Prop :=
  ∀ (s s1 s2 : State) (i : Slot) (v : Voice) (rf : Byte) (a : Assignment),
    slotValid s.cfg i = true → s.v[i.toNat]? = some v → v.assign.enabled ≠ 0 → a.enabled = 0 → rf ≠ 0 →
    exec .tick s = .next s1 → exec (.pktGenerator i rf a) s1 = .next s2 →
    ∃ w, s2.v[i.toNat]? = some w ∧
      w.latched = envLevel s.cfg true (v.life / s.cfg.lifeScale) v.latched s.g.env ∧
      envLevel s2.cfg (isEnabled w.assign) (elapsed s2.cfg w.life) w.latched s2.g.env =
        if 1 ≤ s.g.env.release then w.latched else 0

/-! ### Voice, mixer, TICK -/

/-- R108: VOICE_SCALE completes on every slot that exists and writes the two truncating divisions in their order. For an
`ENV_FULL` or `VELOCITY_MAX` of 0, by which R9 does not divide, the quotient 0 is the model's fallback (log 18). -/
def Obligations.VoiceScaleStep : Prop :=
  ∀ (s : State) (i : Slot) (v : Voice), slotValid s.cfg i = true → s.v[i.toNat]? = some v →
    exec (.voiceScale i) s =
      .next { s with work := { s.work with
        sample :=
          Int.tdiv
            (Int.tdiv (s.work.wave * s.work.level) s.cfg.envFull * (v.assign.velocity.toNat % 128 : Nat))
            s.cfg.velocityMax } }

/-- R108: scaling never makes a sample larger, a negated waveform gives the negated sample, and full level at full velocity
changes nothing. -/
def Obligations.VoiceSampleSymmetricBounded : Prop :=
  ∀ (c : Cfg) (x : Int) (lvl vel : Nat), lvl ≤ c.envFull → vel ≤ c.velocityMax →
    (voiceSample c x lvl vel).natAbs ≤ x.natAbs ∧
    voiceSample c (-x) lvl vel = -voiceSample c x lvl vel ∧
    (1 ≤ c.envFull → 1 ≤ c.velocityMax → voiceSample c x c.envFull c.velocityMax = x)

/-- R109: VOICE_STEP completes on every slot that exists. The voice's sample and its registers are those of the rules, read from the
state before the step; no other slot and nothing of `G` changes. -/
def Obligations.VoiceStepResult : Prop :=
  ∀ (s : State) (i : Slot) (v : Voice) (w p lvl : Nat) (x : Int), slotValid s.cfg i = true → s.v[i.toNat]? = some v →
    w = voiceWavelength s.cfg s.g v.assign → p = (if w ≤ v.phase then 0 else v.phase) →
    x = wave s.cfg v.assign.instrument p w →
    lvl = envLevel s.cfg (isEnabled v.assign) (v.life / s.cfg.lifeScale) v.latched s.g.env →
    exec (.voiceStep i) s =
      .next { s with
        v := s.v.set i.toNat
          { assign := v.assign
            life := (v.life + s.cfg.lifeScale) % 2 ^ s.cfg.lifeW
            phase := if w ≤ p + s.cfg.lifeScale then 0 else p + s.cfg.lifeScale
            latched := if v.assign.enabled = 0 then v.latched else lvl }
        work := { s.work with
          noteFreq := noteFreqAt s.cfg (noteOf v.assign)
          freq := voiceFreq s.cfg s.g v.assign
          wavelength := w
          wave := x
          level := lvl
          sample := voiceSample s.cfg x lvl (velocityOf v.assign) } }

/-- R109: VOICE_STEP is the composition of its ten steps in the order given, the waveform step selected by the instrument byte and the
envelope step by the voice's state. -/
def Obligations.VoiceStepIsItsProgram : Prop :=
  ∀ (s : State) (i : Slot) (v : Voice), slotValid s.cfg i = true → s.v[i.toNat]? = some v →
    execAll
        (voiceProgram (decodeSelector v.assign.instrument) (envInstr (v.envState s.cfg s.g)) i) s =
      exec (.voiceStep i) s

/-- R110: MIX_ACCUMULATE completes; each slot's voice step is invoked once, from the state at hand, and the samples are summed exactly.
When the registers are in range the sum fits the accumulator. -/
def Obligations.MixAccumulateSumsVoiceSteps : Prop :=
  ∀ s : State, s.v.length = s.cfg.nGenerators → s.cfg.nGenerators ≤ 65536 →
    ∃ (t : State) (xs : List Int),
      exec .mixAccumulate s = .next t ∧
      xs.length = s.cfg.nGenerators ∧
      (∀ i : Slot, slotValid s.cfg i = true →
        ∃ u, exec (.voiceStep i) s = .next u ∧ xs[i.toNat]? = some u.work.sample ∧
          t.v[i.toNat]? = u.v[i.toNat]?) ∧
      t = { s with v := t.v, work := { s.work with acc := xs.sum } } ∧
      t.v.length = s.cfg.nGenerators ∧
      (s.cfg.valid = true → (∀ v ∈ s.v, v.InRange s.cfg) → s.g.env.InRange s.cfg →
        xs.sum.natAbs ≤ s.cfg.nGenerators * s.cfg.sampleMax ∧
        -(2 ^ (s.cfg.accW - 1) : Nat) ≤ xs.sum ∧ xs.sum < (2 ^ (s.cfg.accW - 1) : Nat))

/-- R111: MIX_SCALE completes in every state and writes one working value. -/
def Obligations.MixScaleResult : Prop :=
  ∀ s : State,
    exec .mixScale s =
      .next { s with
        work := { s.work with out := s.work.acc * s.g.masterVolume.toNat * (2 ^ s.cfg.headroomShift : Nat) } }

/-- R113: TICK completes. Each slot's voice step is run once, from the state at hand; the samples are summed, scaled by the master
volume and the headroom, and one sample is emitted, in R112's width. Every slot ends as its voice step leaves it, and nothing
else changes. -/
def Obligations.TickResult : Prop :=
  ∀ s : State, s.v.length = s.cfg.nGenerators → s.cfg.nGenerators ≤ 65536 →
    ∃ (vs : List Voice) (xs : List Int),
      exec .tick s =
        .next { s with
          v := vs
          work := Work.idle
          emitted := s.emitted ++
            [wrapS s.cfg.outW (xs.sum * s.g.masterVolume.toNat * (2 ^ s.cfg.headroomShift : Nat))] } ∧
      vs.length = s.cfg.nGenerators ∧
      xs.length = s.cfg.nGenerators ∧
      ∀ i : Slot, slotValid s.cfg i = true →
        ∃ u, exec (.voiceStep i) s = .next u ∧ xs[i.toNat]? = some u.work.sample ∧ vs[i.toNat]? = u.v[i.toNat]?

/-- R111, R112: in a state that meets the invariant the emitted sample is the scaled sum itself, with no wrap. -/
def Obligations.MixerNeverOverflows : Prop :=
  ∀ s u t : State, s.Inv → exec .mixAccumulate s = .next u → exec .tick s = .next t →
    t.emitted = s.emitted ++ [u.work.acc * s.g.masterVolume.toNat * (2 ^ s.cfg.headroomShift : Nat)] ∧
    (u.work.acc * s.g.masterVolume.toNat * (2 ^ s.cfg.headroomShift : Nat)).natAbs ≤
      s.cfg.nGenerators * s.cfg.sampleMax * 255 * 2 ^ s.cfg.headroomShift

/-- R115: the voices may be stepped in any order; the registers end as MIX_ACCUMULATE leaves them. -/
def Obligations.VoiceOrderIrrelevant : Prop :=
  ∀ (s : State) (order : List Nat), s.v.length = s.cfg.nGenerators → s.cfg.nGenerators ≤ 65536 →
    order.Perm (List.range s.cfg.nGenerators) →
    ∃ t u, execAll (order.map (fun k => .voiceStep (BitVec.ofNat 16 k))) s = .next t ∧
      exec .mixAccumulate s = .next u ∧ t.v = u.v

/-- R115: what a TICK does to a slot depends on that slot, `G` and the configuration only. -/
def Obligations.VoiceIndependence : Prop :=
  ∀ (s s' t t' : State) (k : Nat), s.cfg = s'.cfg → s.g = s'.g → s.v[k]? = s'.v[k]? →
    exec .tick s = .next t → exec .tick s' = .next t' → t.v[k]? = t'.v[k]?

/-- R114: `n` ticks advance every slot's elapsed life and phase accumulator `n` times, whether or not it sounds, and emit `n`
samples. That every TICK completes, with no underrun, is the model's assumption (R140, log 13). -/
def Obligations.ExactlyOncePerTick : Prop :=
  ∀ (n : Nat) (s : State) (rest : List Event), s.cfg.valid = true → (∀ v ∈ s.v, v.life < 2 ^ s.cfg.lifeW) →
    s.inputs = List.replicate n .tick ++ rest →
    ∃ t, core.run n s = .next t ∧ t.inputs = rest ∧ t.emitted.length = s.emitted.length + n ∧
      t.v.map (·.life) = s.v.map (fun v => (v.life + n * s.cfg.lifeScale) % 2 ^ s.cfg.lifeW) ∧
      t.v.map (·.phase) =
        s.v.map (fun v =>
          Nat.iterate
            (fun p =>
              advancedPhase s.cfg (normalised p (voiceWavelength s.cfg s.g v.assign))
                (voiceWavelength s.cfg s.g v.assign))
            n v.phase)

/-- R20: after a TICK every phase lies inside the period that TICK used. -/
def Obligations.PhaseInsidePeriodAfterTick : Prop :=
  ∀ (s t : State) (k : Nat) (v w : Voice), exec .tick s = .next t → s.v[k]? = some v → t.v[k]? = some w →
    1 ≤ voiceWavelength s.cfg s.g v.assign → w.phase < voiceWavelength s.cfg s.g v.assign

/-- R90: with nothing but ticks, a phase that starts at 0 runs through the multiples of the increment with the period
`ceil(w / LIFE_INC)`. -/
def Obligations.PhaseRunsThroughItsPeriod : Prop :=
  ∀ (n : Nat) (s : State) (rest : List Event) (k w : Nat) (v : Voice), s.cfg.valid = true →
    s.inputs = List.replicate n .tick ++ rest → s.v[k]? = some v → v.phase = 0 →
    w = voiceWavelength s.cfg s.g v.assign →
    ∃ t u, core.run n s = .next t ∧ t.v[k]? = some u ∧
      u.phase = n % ((w + s.cfg.lifeScale - 1) / s.cfg.lifeScale) * s.cfg.lifeScale

/-- R89: no packet with the reset flag clear writes a phase; a TICK advances a phase that stays inside the period by the increment;
and a phase becomes zero only by a wrap, by normalisation, by a set reset flag or by RESET. -/
def Obligations.PhaseContinuity : Prop :=
  ∀ s t : State,
    (∀ r, exec (.pktGlobal r) s = .next t → t.v.map (·.phase) = s.v.map (·.phase)) ∧
    (∀ i a, exec (.pktGenerator i 0 a) s = .next t → t.v.map (·.phase) = s.v.map (·.phase)) ∧
    (exec .tick s = .next t → ∀ (k : Nat) (v w : Voice), s.v[k]? = some v → t.v[k]? = some w →
      (v.phase + s.cfg.lifeScale < voiceWavelength s.cfg s.g v.assign → w.phase = v.phase + s.cfg.lifeScale) ∧
      (v.phase < voiceWavelength s.cfg s.g v.assign →
        voiceWavelength s.cfg s.g v.assign ≤ v.phase + s.cfg.lifeScale → w.phase = 0)) ∧
    ∀ (i : Instr) (k : Nat) (v w : Voice), selectedByEvent i = true → exec i s = .next t → s.v[k]? = some v →
      t.v[k]? = some w → v.phase ≠ 0 → w.phase = 0 →
        i = .reset ∨ (i = .tick ∧ voiceWavelength s.cfg s.g v.assign ≤ v.phase + s.cfg.lifeScale) ∨
          ∃ j rf a, i = .pktGenerator j rf a ∧ j.toNat = k ∧ rf ≠ 0

/-! ### The steps of TICK as operations: the model's own choices -/

/-- The model's choice (log 5): a step that the voice does not select changes nothing. -/
def Obligations.UnselectedStepsDoNothing : Prop :=
  ∀ (s : State) (i : Slot) (v : Voice), s.v[i.toNat]? = some v →
    (v.assign.instrument ≠ 0 → exec (.waveSquare i) s = .next s) ∧
    (v.assign.instrument ≠ 1 → exec (.waveTriangle i) s = .next s) ∧
    (v.assign.instrument ≠ 2 → exec (.waveSawtooth i) s = .next s) ∧
    (v.assign.instrument ≠ 3 → exec (.waveSine i) s = .next s) ∧
    (v.assign.instrument.toNat < 4 → exec (.waveNone i) s = .next s) ∧
    (v.assign.enabled ≠ 0 → exec (.envRelease i) s = .next s) ∧
    ((v.assign.enabled = 0 ∨ s.g.env.attack ≤ v.life / s.cfg.lifeScale) → exec (.envAttack i) s = .next s) ∧
    ((v.assign.enabled = 0 ∨ v.life / s.cfg.lifeScale < s.g.env.attack ∨
        s.g.env.attack + s.g.env.decay ≤ v.life / s.cfg.lifeScale) → exec (.envDecay i) s = .next s) ∧
    ((v.assign.enabled = 0 ∨ v.life / s.cfg.lifeScale < s.g.env.attack + s.g.env.decay) →
      exec (.envSustain i) s = .next s)

/-- The model's choice (log 6): an operation on a slot that does not exist changes nothing, so no index is out of bounds (R29). -/
def Obligations.NoSuchSlotDoesNothing : Prop := ∀ (i : Instr) (s : State), i.wf s.cfg = false → exec i s = .next s

/-! ### The whole machine -/

/-- R117: every operation completes in every state. -/
def Obligations.EveryOperationCompletes : Prop := ∀ (i : Instr) (s : State), ∃ t, exec i s = .next t

/-- R117: a step answers a next state for every input; it is refused exactly when the configuration violates R8. How R8 speaks of an
absent table entry and of a width of 0 is the model's reading (log 7). -/
def Obligations.OnlyBadConfigurationStopsAStep : Prop :=
  ∀ s : State,
    (s.cfg.MeetsR8 → ∃ t, step s = .next t) ∧ (¬ s.cfg.MeetsR8 → step s = .refused .badConfiguration)

/-- R36, R132: a step takes the next event and runs the operation it selects in the state without that event; the bytes of a packet,
from anyone or from the link, run as the operation they decode to; with no event to come, or no packet to deliver, the block holds its
state (the last clause is the model's choice, log 2). -/
def Obligations.StepRunsTheNextEvent : Prop :=
  ∀ (s : State) (es : List Event), s.cfg.valid = true →
    (s.inputs = .reset :: es → step s = exec .reset { s with inputs := es }) ∧
    (s.inputs = .tick :: es → step s = exec .tick { s with inputs := es }) ∧
    (∀ pkt, s.inputs = .cmd pkt :: es → step s = exec (decode s.cfg pkt) { s with inputs := es }) ∧
    (∀ p ps, s.inputs = .deliver :: es → s.link = p :: ps →
      step s = exec (decode s.cfg p) { s with inputs := es, link := ps }) ∧
    (s.inputs = [] → step s = .next s) ∧
    (s.inputs = .deliver :: es → s.link = [] → step s = .next { s with inputs := es })

/-- The word the host places is the packet that the next step runs (log 3, log 4). -/
def Obligations.StepRunsTheFetchedWord : Prop :=
  ∀ (s : State) (nbits w : Nat), s.cfg = Cfg.reference →
    ∃ i, decodeTableWord nbits w = some i ∧ step (s.withFetchWord nbits w) = exec i s

/-- R19: who writes what, over the operations an event selects; the configuration and its tables are never written (R22). -/
def Obligations.WriteMatrix : Prop :=
  ∀ (i : Instr) (s t : State), selectedByEvent i = true → exec i s = .next t →
    t.cfg = s.cfg ∧
    (t.g ≠ s.g → i = .reset ∨ ∃ r, i = .pktGlobal r) ∧
    ∀ (k : Nat) (v w : Voice), s.v[k]? = some v → t.v[k]? = some w →
      (w.assign ≠ v.assign → i = .reset ∨ ∃ j rf, i = .pktGenerator j rf w.assign ∧ j.toNat = k) ∧
      (w.life ≠ v.life ∨ w.phase ≠ v.phase →
        i = .reset ∨ i = .tick ∨
          ∃ j rf a, i = .pktGenerator j rf a ∧ j.toNat = k ∧ rf ≠ 0 ∧ w.life = 0 ∧ w.phase = 0) ∧
      (w.latched ≠ v.latched → i = .reset ∨ (i = .tick ∧ v.assign.enabled ≠ 0))

/-- Every step keeps the invariant: the configuration valid, every register in its range, no working value kept, every emitted sample
in its width (R8, R10, R12 to R14, R17, R21, R112), the host's table and cursor in theirs (R55, R68). -/
def Obligations.StepKeepsInvariant : Prop := ∀ s t : State, s.Inv → step s = .next t → t.Inv

/-- The state after reset meets the invariant, and no voice can sound in it (R27, R135). The host's initial values, which conform
(R55, R68), are the model's choice (log 10), and so is the reference configuration at reset, which is valid (R8; log 1). -/
def Obligations.ResetMeetsInvariant : Prop := State.reset.Inv ∧ State.reset.Quiet

/-- R135: while no packet enables a voice, a block in which no voice can sound emits only zeros and stays so; and whatever the
voices, a master volume of 0 emits a zero. -/
def Obligations.SilenceUntilAVoiceIsEnabled : Prop :=
  ∀ s t : State, step s = .next t →
    (s.Quiet → (∀ j rf a, (takeNext s).1 = some (.pktGenerator j rf a) → a.enabled = 0) →
      t.Quiet ∧ (t.emitted = s.emitted ∨ t.emitted = s.emitted ++ [0])) ∧
    (s.g.masterVolume = 0 → t.emitted = s.emitted ∨ t.emitted = s.emitted ++ [0])

/-- R8: the check the step evaluates, which tries two bends for each note, agrees with the constraints as written, which speak of all
256. -/
def Obligations.ConfigurationCheckIsR8 : Prop := ∀ c : Cfg, c.valid = true ↔ c.MeetsR8

/-- R7, R77, R78, R80, R96: the reference configuration is valid, its note table and bend scale are the roundings of their formulas,
and its sine table has the symmetries the spec names. -/
def Obligations.ReferenceConfiguration : Prop :=
  Cfg.reference.valid = true ∧
  (∀ n < 128, Cfg.reference.isRoundedNote n (noteFreqAt Cfg.reference n)) ∧
  Cfg.reference.isRoundedScale ∧
  noteFreqAt Cfg.reference 58 = 440 * 2 ^ 8 ∧
  (∀ k < 128, sineAt Cfg.reference (128 + k) = -sineAt Cfg.reference k) ∧
  (∀ k ≤ 128, sineAt Cfg.reference (128 - k) = sineAt Cfg.reference k)

/-! ### The host -/

/-- R57, R67, R68, R137: the host's events complete, change nothing but the host and the link, and send the packets shown; a MIDI event
runs the interpreter on the message, so what other statements say of `midiMessage` is said of steps. The form of the
start and set events, the fresh table of zero records and the ascending order of the synchronising packets are the model's choice
(log 15). -/
def Obligations.HostEventsActThroughTheLink : Prop :=
  ∀ (s : State) (es : List Event), s.cfg.valid = true →
    (∀ msg, s.inputs = .midi msg :: es →
      step s = .next { s with
        inputs := es
        control := (midiMessage s.cfg.nGenerators s.control msg).1
        link := s.link ++ (midiMessage s.cfg.nGenerators s.control msg).2 }) ∧
    (∀ r, s.inputs = .hostStart r false :: es →
      step s = .next { s with
        inputs := es
        control :=
          { globals := r
            table := List.replicate s.cfg.nGenerators ⟨0, 0, 0, 0, 0⟩
            cursor := 0
            curInstrument := s.control.curInstrument }
        link := s.link ++ [encodeGlobal r] }) ∧
    (∀ r, s.inputs = .hostStart r true :: es →
      step s = .next { s with
        inputs := es
        control :=
          { globals := r
            table := List.replicate s.cfg.nGenerators ⟨0, 0, 0, 0, 0⟩
            cursor := 0
            curInstrument := s.control.curInstrument }
        link := s.link ++ encodeGlobal r ::
          (List.range s.cfg.nGenerators).map (fun j => encodeGenerator (BitVec.ofNat 16 j) 1 ⟨0, 0, 0, 0, 0⟩) }) ∧
    (∀ vol env, s.inputs = .hostSet vol env :: es →
      step s = .next { s with
        inputs := es
        control := { s.control with globals := ⟨vol, env, s.control.globals.pitchBend⟩ }
        link := s.link ++ [encodeGlobal ⟨vol, env, s.control.globals.pitchBend⟩] })

/-- R59, R65: note-off on a channel other than 9. The slot is the enabled one that holds the note and the channel; with none the
message does nothing. Where several match, the lowest is taken: the spec's derivation, reached only where R56 is broken (log 11). -/
def Obligations.NoteOffRule : Prop :=
  ∀ (n : Nat) (h : ControlPlane) (st note vel ch : Byte), st.extractLsb' 4 4 = 0x8 → st.extractLsb' 0 4 ≠ 9 →
    note.toNat < 128 → vel.toNat < 128 → ch = (st.extractLsb' 0 4).setWidth 8 →
    ((∀ k < n, ¬ ((h.entry k).enabled ≠ 0 ∧ (h.entry k).noteIndex = note ∧ (h.entry k).channelIndex = ch)) →
      midiMessage n h [st, note, vel] = (h, [])) ∧
    ∀ j a, j < n → h.table[j]? = some a → a.enabled ≠ 0 → a.noteIndex = note → a.channelIndex = ch →
      (∀ k < j, ¬ ((h.entry k).enabled ≠ 0 ∧ (h.entry k).noteIndex = note ∧ (h.entry k).channelIndex = ch)) →
      midiMessage n h [st, note, vel] =
        ({ h with
            table := h.table.set j { a with enabled := 0, velocity := if vel = 0 then a.velocity else vel } },
         [encodeGenerator (BitVec.ofNat 16 j) 1
            { a with enabled := 0, velocity := if vel = 0 then a.velocity else vel }])

/-- R60: note-on on a channel other than 9. Velocity 0 is a note-off; otherwise `j` is the slot `find_vacant` gives. For
a pair that is already enabled in another slot R60 leaves a gap; that a second slot is taken is the model's reading (log 11). -/
def Obligations.NoteOnRule : Prop :=
  ∀ (n : Nat) (h : ControlPlane) (st note vel : Byte), st.extractLsb' 4 4 = 0x9 → st.extractLsb' 0 4 ≠ 9 →
    note.toNat < 128 → vel.toNat < 128 →
    (vel = 0 → midiMessage n h [st, note, vel] = midiMessage n h [0x80#8 ||| (st &&& 0x0F#8), note, vel]) ∧
    (vel ≠ 0 → findVacant n h = none → midiMessage n h [st, note, vel] = (h, [])) ∧
    ∀ j, vel ≠ 0 → findVacant n h = some j →
      midiMessage n h [st, note, vel] =
        ({ h with
            table := h.table.set j ⟨1, h.instrumentByte, note, (st.extractLsb' 0 4).setWidth 8, vel⟩
            cursor := (j + 1) % n },
         [encodeGenerator (BitVec.ofNat 16 j) 1
            ⟨1, h.instrumentByte, note, (st.extractLsb' 0 4).setWidth 8, vel⟩])

/-- R61: pitch-bend on a channel other than 9 stores the rescaled value, which is 0 for the centred payload, and sends the whole
GlobalState (decision D33; the byte order is from general knowledge, log 14). -/
def Obligations.PitchBendRule : Prop :=
  ∀ (n : Nat) (h : ControlPlane) (st d1 d2 : Byte), st.extractLsb' 4 4 = 0xE → st.extractLsb' 0 4 ≠ 9 →
    d1.toNat < 128 → d2.toNat < 128 →
    ∃ (b : Byte) (r : GlobalRecord),
      midiMessage n h [st, d1, d2] = ({ h with globals := r }, [encodeGlobal r]) ∧
      r = { h.globals with pitchBend := h.globals.pitchBend.set (st.extractLsb' 0 4).toNat b } ∧
      b.toInt = ((d1.toNat : Int) + 128 * d2.toNat - 8192) / 64 ∧
      (d1 = 0 → d2 = 0x40 → b = 0)

/-- R57, R58, R62: a message with a high bit set after its first byte, an empty message, a consumed type of the wrong length, any
message of another type, and a channel-9 message change nothing and send nothing. -/
def Obligations.DiscardedMessages : Prop :=
  ∀ (n : Nat) (h : ControlPlane) (msg : Packet),
    (msg = [] ∨ (∃ b ∈ msg.tail, 128 ≤ b.toNat) ∨
      ((byteAt msg 0).extractLsb' 4 4 ≠ 0x8 ∧ (byteAt msg 0).extractLsb' 4 4 ≠ 0x9 ∧
        (byteAt msg 0).extractLsb' 4 4 ≠ 0xE) ∨
      msg.length ≠ 3 ∨ (byteAt msg 0).extractLsb' 0 4 = 9) →
    midiMessage n h msg = (h, [])

/-- R63: a message changes nothing and sends nothing, or sends exactly one packet; a message R57, R58 or R62 discards, a note-off
without a match and a note-on without a free slot send none (that a consumed type is three bytes long is the model's reading,
log 14). -/
def Obligations.OnePacketPerStateChange : Prop :=
  ∀ (n : Nat) (h : ControlPlane) (msg : Packet),
    (midiMessage n h msg = (h, []) ∨ ∃ h' p, midiMessage n h msg = (h', [p])) ∧
    ((msg = [] ∨ (∃ b ∈ msg.tail, 128 ≤ b.toNat) ∨ msg.length ≠ 3 ∨ (byteAt msg 0).extractLsb' 0 4 = 9 ∨
        ((byteAt msg 0).extractLsb' 4 4 ≠ 0x8 ∧ (byteAt msg 0).extractLsb' 4 4 ≠ 0x9 ∧
          (byteAt msg 0).extractLsb' 4 4 ≠ 0xE)) →
      (midiMessage n h msg).2 = []) ∧
    (((byteAt msg 0).extractLsb' 4 4 = 0x8 ∨ ((byteAt msg 0).extractLsb' 4 4 = 0x9 ∧ byteAt msg 2 = 0)) →
      (∀ k < n, ¬ ((h.entry k).enabled ≠ 0 ∧ (h.entry k).noteIndex = byteAt msg 1 ∧
        (h.entry k).channelIndex = ((byteAt msg 0).extractLsb' 0 4).setWidth 8)) →
      (midiMessage n h msg).2 = []) ∧
    ((byteAt msg 0).extractLsb' 4 4 = 0x9 → byteAt msg 2 ≠ 0 →
      (∀ k < n, (h.entry ((h.cursor + k) % n)).enabled ≠ 0) → (midiMessage n h msg).2 = [])

/-- R64: `find_vacant` gives the first disabled slot from the cursor on, and none exactly when all are enabled; the note-on that
takes the slot advances the cursor to one past it, and one that finds none leaves the cursor. -/
def Obligations.FindVacantScansFromTheCursor : Prop :=
  ∀ (n : Nat) (h : ControlPlane), h.cursor < n → h.table.length = n →
    (findVacant n h = none ↔ ∀ a ∈ h.table, a.enabled ≠ 0) ∧
    (∀ j, findVacant n h = some j ↔
      ∃ k < n, j = (h.cursor + k) % n ∧ (h.entry j).enabled = 0 ∧
        ∀ k' < k, (h.entry ((h.cursor + k') % n)).enabled ≠ 0) ∧
    ∀ (ch : BitVec 4) (note vel : Byte), vel ≠ 0 →
      (∀ j, findVacant n h = some j → (noteOn n h ch note vel).1.cursor = (j + 1) % n) ∧
      (findVacant n h = none → (noteOn n h ch note vel).1.cursor = h.cursor)

/-- R66: a note-on while a slot is free enables exactly one previously disabled slot with the event's values; with all slots enabled it
changes nothing; a slot freed again is not given out again at once unless all others are enabled. That the pair of the event may be
enabled already is the model's reading (log 11). -/
def Obligations.AllocationProperties : Prop :=
  ∀ (n : Nat) (h : ControlPlane) (ch : BitVec 4) (note vel : Byte), h.cursor < n → h.table.length = n → vel ≠ 0 →
    ((∃ a ∈ h.table, a.enabled = 0) →
      ∃ j old p, h.table[j]? = some old ∧ old.enabled = 0 ∧
        (noteOn n h ch note vel).1.table =
          h.table.set j ⟨1, h.instrumentByte, note, ch.setWidth 8, vel⟩ ∧
        (noteOn n h ch note vel).2 = [p] ∧
        ∀ (h' : ControlPlane) (j' : Nat), h'.cursor = (noteOn n h ch note vel).1.cursor → h'.table.length = n →
          findVacant n h' = some j' → j' = j → ∀ k < n, k ≠ j → (h'.entry k).enabled ≠ 0) ∧
    ((∀ a ∈ h.table, a.enabled ≠ 0) → noteOn n h ch note vel = (h, []))

/-- R15, R11, R52: if the two planes agree up to the packets in flight, they still do after a tick, a delivery, a MIDI message or a
change of volume or envelope; and a start with synchronising packets makes them agree (R137, R138; the packets as log 15 says). RESET
and a packet from another sender can break the agreement. -/
def Obligations.PlanesStayInAgreement : Prop :=
  ∀ (s t : State) (e : Event) (es : List Event), s.cfg.valid = true → s.v.length = s.cfg.nGenerators →
    s.control.table.length = s.cfg.nGenerators → s.control.cursor < s.cfg.nGenerators → s.inputs = e :: es →
    step s = .next t →
    ((e = .tick ∨ e = .deliver ∨ (∃ msg, e = .midi msg) ∨ ∃ vol env, e = .hostSet vol env) → s.Agrees → t.Agrees) ∧
    ((∃ r, e = .hostStart r true) → t.Agrees)

/-- R124, R25: nothing flows from the block to the host: no operation of the block changes the host or puts a packet on the link, and
what a host event does to the host and sends depends on the host alone. -/
def Obligations.NothingFlowsBack : Prop :=
  (∀ (i : Instr) (s t : State), exec i s = .next t →
    t.control = s.control ∧ (t.link = s.link ∨ (i = .reset ∧ t.link = []))) ∧
  ∀ (e : Event) (s s' : State), s.cfg = s'.cfg → s.control = s'.control → s.link = s'.link →
    (takeEvent e s).2.control = (takeEvent e s').2.control ∧ (takeEvent e s).2.link = (takeEvent e s').2.link

/-- R68, R55, R56: whatever the step, a conforming host stays conforming and, while only conforming packets are on the link, sends only
such; and no two enabled slots come to share a (note, channel) pair unless a note-on brings a pair that is already enabled, which
spec/93_implementation_defined.md U17 makes a precondition (log 11). -/
def Obligations.HostStaysConforming : Prop :=
  ∀ s t : State, s.control.Conforms s.cfg.nGenerators → step s = .next t →
    t.control.Conforms s.cfg.nGenerators ∧
    ((∀ p ∈ s.link, ConformingPacket s.cfg.nGenerators p) → ∀ p ∈ t.link, ConformingPacket s.cfg.nGenerators p) ∧
    (s.control.PairsUnique s.cfg.nGenerators →
      (∀ e ∈ s.inputs.head?, e.BringsNewPair s.cfg.nGenerators s.control) →
      t.control.PairsUnique s.cfg.nGenerators)
end

