-- ==== Sys2Proof/Laws/State.lean ====
section
/-! SUPPORT. What each named update of the state leaves in each field, one lemma per field per update. -/

namespace Sys2Proof.Machine

open Sys2Proof

variable (s : State)

@[simp] theorem State.setG_cfg (x : GlobalState) : (s.setG x).cfg = s.cfg := rfl
@[simp] theorem State.setG_g (x : GlobalState) : (s.setG x).g = x := rfl
@[simp] theorem State.setG_v (x : GlobalState) : (s.setG x).v = s.v := rfl
@[simp] theorem State.setG_work (x : GlobalState) : (s.setG x).work = s.work := rfl
@[simp] theorem State.setG_inputs (x : GlobalState) : (s.setG x).inputs = s.inputs := rfl
@[simp] theorem State.setG_link (x : GlobalState) : (s.setG x).link = s.link := rfl
@[simp] theorem State.setG_control (x : GlobalState) : (s.setG x).control = s.control := rfl
@[simp] theorem State.setG_emitted (x : GlobalState) : (s.setG x).emitted = s.emitted := rfl

@[simp] theorem State.setV_cfg (x : List Voice) : (s.setV x).cfg = s.cfg := rfl
@[simp] theorem State.setV_g (x : List Voice) : (s.setV x).g = s.g := rfl
@[simp] theorem State.setV_v (x : List Voice) : (s.setV x).v = x := rfl
@[simp] theorem State.setV_work (x : List Voice) : (s.setV x).work = s.work := rfl
@[simp] theorem State.setV_inputs (x : List Voice) : (s.setV x).inputs = s.inputs := rfl
@[simp] theorem State.setV_link (x : List Voice) : (s.setV x).link = s.link := rfl
@[simp] theorem State.setV_control (x : List Voice) : (s.setV x).control = s.control := rfl
@[simp] theorem State.setV_emitted (x : List Voice) : (s.setV x).emitted = s.emitted := rfl

@[simp] theorem State.setWork_cfg (x : Work) : (s.setWork x).cfg = s.cfg := rfl
@[simp] theorem State.setWork_g (x : Work) : (s.setWork x).g = s.g := rfl
@[simp] theorem State.setWork_v (x : Work) : (s.setWork x).v = s.v := rfl
@[simp] theorem State.setWork_work (x : Work) : (s.setWork x).work = x := rfl
@[simp] theorem State.setWork_inputs (x : Work) : (s.setWork x).inputs = s.inputs := rfl
@[simp] theorem State.setWork_link (x : Work) : (s.setWork x).link = s.link := rfl
@[simp] theorem State.setWork_control (x : Work) : (s.setWork x).control = s.control := rfl
@[simp] theorem State.setWork_emitted (x : Work) : (s.setWork x).emitted = s.emitted := rfl

@[simp] theorem State.setInputs_cfg (x : List Event) : (s.setInputs x).cfg = s.cfg := rfl
@[simp] theorem State.setInputs_g (x : List Event) : (s.setInputs x).g = s.g := rfl
@[simp] theorem State.setInputs_v (x : List Event) : (s.setInputs x).v = s.v := rfl
@[simp] theorem State.setInputs_work (x : List Event) : (s.setInputs x).work = s.work := rfl
@[simp] theorem State.setInputs_inputs (x : List Event) : (s.setInputs x).inputs = x := rfl
@[simp] theorem State.setInputs_link (x : List Event) : (s.setInputs x).link = s.link := rfl
@[simp] theorem State.setInputs_control (x : List Event) : (s.setInputs x).control = s.control := rfl
@[simp] theorem State.setInputs_emitted (x : List Event) : (s.setInputs x).emitted = s.emitted := rfl

@[simp] theorem State.setLink_cfg (x : List Packet) : (s.setLink x).cfg = s.cfg := rfl
@[simp] theorem State.setLink_g (x : List Packet) : (s.setLink x).g = s.g := rfl
@[simp] theorem State.setLink_v (x : List Packet) : (s.setLink x).v = s.v := rfl
@[simp] theorem State.setLink_work (x : List Packet) : (s.setLink x).work = s.work := rfl
@[simp] theorem State.setLink_inputs (x : List Packet) : (s.setLink x).inputs = s.inputs := rfl
@[simp] theorem State.setLink_link (x : List Packet) : (s.setLink x).link = x := rfl
@[simp] theorem State.setLink_control (x : List Packet) : (s.setLink x).control = s.control := rfl
@[simp] theorem State.setLink_emitted (x : List Packet) : (s.setLink x).emitted = s.emitted := rfl

@[simp] theorem State.setControl_cfg (x : ControlPlane) : (s.setControl x).cfg = s.cfg := rfl
@[simp] theorem State.setControl_g (x : ControlPlane) : (s.setControl x).g = s.g := rfl
@[simp] theorem State.setControl_v (x : ControlPlane) : (s.setControl x).v = s.v := rfl
@[simp] theorem State.setControl_work (x : ControlPlane) : (s.setControl x).work = s.work := rfl
@[simp] theorem State.setControl_inputs (x : ControlPlane) : (s.setControl x).inputs = s.inputs := rfl
@[simp] theorem State.setControl_link (x : ControlPlane) : (s.setControl x).link = s.link := rfl
@[simp] theorem State.setControl_control (x : ControlPlane) : (s.setControl x).control = x := rfl
@[simp] theorem State.setControl_emitted (x : ControlPlane) : (s.setControl x).emitted = s.emitted := rfl

@[simp] theorem State.emit_cfg (x : Int) : (s.emit x).cfg = s.cfg := rfl
@[simp] theorem State.emit_g (x : Int) : (s.emit x).g = s.g := rfl
@[simp] theorem State.emit_v (x : Int) : (s.emit x).v = s.v := rfl
@[simp] theorem State.emit_work (x : Int) : (s.emit x).work = s.work := rfl
@[simp] theorem State.emit_inputs (x : Int) : (s.emit x).inputs = s.inputs := rfl
@[simp] theorem State.emit_link (x : Int) : (s.emit x).link = s.link := rfl
@[simp] theorem State.emit_control (x : Int) : (s.emit x).control = s.control := rfl
@[simp] theorem State.emit_emitted (x : Int) : (s.emit x).emitted = s.emitted ++ [x] := rfl

@[simp] theorem State.send_cfg (ps : List Packet) : (s.send ps).cfg = s.cfg := rfl
@[simp] theorem State.send_g (ps : List Packet) : (s.send ps).g = s.g := rfl
@[simp] theorem State.send_v (ps : List Packet) : (s.send ps).v = s.v := rfl
@[simp] theorem State.send_work (ps : List Packet) : (s.send ps).work = s.work := rfl
@[simp] theorem State.send_inputs (ps : List Packet) : (s.send ps).inputs = s.inputs := rfl
@[simp] theorem State.send_link (ps : List Packet) : (s.send ps).link = s.link ++ ps := rfl
@[simp] theorem State.send_control (ps : List Packet) : (s.send ps).control = s.control := rfl
@[simp] theorem State.send_emitted (ps : List Packet) : (s.send ps).emitted = s.emitted := rfl

@[simp] theorem State.hostDoes_cfg (r : HostResult) : (s.hostDoes r).cfg = s.cfg := rfl
@[simp] theorem State.hostDoes_g (r : HostResult) : (s.hostDoes r).g = s.g := rfl
@[simp] theorem State.hostDoes_v (r : HostResult) : (s.hostDoes r).v = s.v := rfl
@[simp] theorem State.hostDoes_work (r : HostResult) : (s.hostDoes r).work = s.work := rfl
@[simp] theorem State.hostDoes_inputs (r : HostResult) : (s.hostDoes r).inputs = s.inputs := rfl
@[simp] theorem State.hostDoes_link (r : HostResult) : (s.hostDoes r).link = s.link ++ r.2 := rfl
@[simp] theorem State.hostDoes_control (r : HostResult) : (s.hostDoes r).control = r.1 := rfl
@[simp] theorem State.hostDoes_emitted (r : HostResult) : (s.hostDoes r).emitted = s.emitted := rfl

/-- Writing back what a field holds changes nothing. -/
@[simp] theorem State.setV_self : s.setV s.v = s := rfl
@[simp] theorem State.setWork_self : s.setWork s.work = s := rfl
@[simp] theorem State.setG_self : s.setG s.g = s := rfl

end Sys2Proof.Machine
end

