-- ==== Sys2Proof/Laws/Ops.lean ====
section
/-! SUPPORT. What the shared operations can do: access to a slot, one step of a voice, the arithmetic primitives. Later proofs cite
these lemmas instead of unfolding the operations. -/

namespace Sys2Proof.Machine

open Sys2Proof

variable {s : State} {i : Slot} {v : Voice}

/-! ### Slots -/

theorem slotValid_iff {c : Cfg} {i : Slot} : slotValid c i = true ↔ i.toNat < c.nGenerators := by
  simp [slotValid]

theorem voice?_eq_some (h : slotValid s.cfg i = true) (hv : s.v[i.toNat]? = some v) : s.voice? i = some v := by
  simp [State.voice?, h, hv]

theorem voice?_some (h : s.voice? i = some v) : slotValid s.cfg i = true ∧ s.v[i.toNat]? = some v := by
  unfold State.voice? at h
  split at h
  · exact ⟨by assumption, h⟩
  · cases h

theorem voice?_invalid (h : slotValid s.cfg i = false) : s.voice? i = none := by simp [State.voice?, h]

theorem set_self {l : List Voice} {k : Nat} (h : l[k]? = some v) : l.set k v = l := by
  obtain ⟨hk, rfl⟩ := List.getElem?_eq_some_iff.mp h
  exact List.set_getElem_self hk

/-! ### One step of a voice -/

theorem onSlot_some (f : Lane → Lane) (h : s.voice? i = some v) :
    s.onSlot i f = (s.setV (s.v.set i.toNat (f ⟨v, s.work⟩).voice)).setWork (f ⟨v, s.work⟩).work := by
  simp [State.onSlot, h]

theorem onSlot_none (f : Lane → Lane) (h : s.voice? i = none) : s.onSlot i f = s := by simp [State.onSlot, h]

/-- A step that leaves the voice alone changes the working values only. -/
theorem onSlot_work (f : Lane → Lane) (h : s.voice? i = some v) (hf : (f ⟨v, s.work⟩).voice = v) :
    s.onSlot i f = s.setWork (f ⟨v, s.work⟩).work := by
  rw [onSlot_some f h, hf, set_self (voice?_some h).2, State.setV_self]

/-- A step that leaves the working values alone changes the voice only. -/
theorem onSlot_voice (f : Lane → Lane) (h : s.voice? i = some v) (hf : (f ⟨v, s.work⟩).work = s.work) :
    s.onSlot i f = s.setV (s.v.set i.toNat (f ⟨v, s.work⟩).voice) := by
  rw [onSlot_some f h, hf]
  exact State.setWork_self (s.setV _)

/-- A step that leaves both alone changes nothing. -/
theorem onSlot_id (f : Lane → Lane) (hf : ∀ v, s.voice? i = some v → f ⟨v, s.work⟩ = ⟨v, s.work⟩) :
    s.onSlot i f = s := by
  cases h : s.voice? i with
  | none => exact onSlot_none f h
  | some v => rw [onSlot_work f h (by rw [hf v h]), hf v h]; rfl

@[simp] theorem onSlot_cfg (f : Lane → Lane) : (s.onSlot i f).cfg = s.cfg := by
  unfold State.onSlot; split <;> rfl
@[simp] theorem onSlot_g (f : Lane → Lane) : (s.onSlot i f).g = s.g := by
  unfold State.onSlot; split <;> rfl

theorem onSlot_length (f : Lane → Lane) : (s.onSlot i f).v.length = s.v.length := by
  unfold State.onSlot; split <;> simp

theorem onSlot_voice? (f : Lane → Lane) (h : s.voice? i = some v) :
    (s.onSlot i f).voice? i = some (f ⟨v, s.work⟩).voice := by
  obtain ⟨hi, hv⟩ := voice?_some h
  obtain ⟨hk, -⟩ := List.getElem?_eq_some_iff.mp hv
  rw [onSlot_some f h]
  exact voice?_eq_some hi (by simp [hk])

/-- Two steps on one slot, one after the other. -/
theorem onSlot_onSlot (f f' : Lane → Lane) : (s.onSlot i f).onSlot i f' = s.onSlot i (fun l => f' (f l)) := by
  cases h : s.voice? i with
  | none => simp [onSlot_none _ h]
  | some v =>
    rw [onSlot_some f' (onSlot_voice? f h), onSlot_some f h, onSlot_some (fun l => f' (f l)) h]
    simp [State.setV, State.setWork, List.set_set]

theorem modifyVoice_some (f : Voice → Voice) (h : s.voice? i = some v) :
    s.modifyVoice i f = s.setV (s.v.set i.toNat (f v)) := by
  simp [State.modifyVoice, h]

theorem modifyVoice_none (f : Voice → Voice) (h : s.voice? i = none) : s.modifyVoice i f = s := by
  simp [State.modifyVoice, h]

/-- All a rewrite of a slot can do. -/
theorem modifyVoice_cases (f : Voice → Voice) :
    s.modifyVoice i f = s ∨ ∃ v, s.voice? i = some v ∧ s.modifyVoice i f = s.setV (s.v.set i.toNat (f v)) := by
  cases h : s.voice? i with
  | none => exact .inl (modifyVoice_none f h)
  | some v => exact .inr ⟨v, rfl, modifyVoice_some f h⟩

/-! ### Arithmetic -/

theorem truncU_lt (n x : Nat) : truncU n x < 2 ^ n := Nat.mod_lt _ (Nat.two_pow_pos n)

theorem truncU_of_lt {n x : Nat} (h : x < 2 ^ n) : truncU n x = x := Nat.mod_eq_of_lt h

theorem tdiv_eq (a : Int) (b : Nat) : tdiv a b = Int.tdiv a b := by
  unfold tdiv
  split
  · next h =>
    obtain ⟨n, rfl⟩ := Int.eq_ofNat_of_zero_le h
    simp [Int.tdiv]
  · next h =>
    obtain ⟨n, hn⟩ : ∃ n : Nat, a = -(n : Int) := ⟨(-a).toNat, by omega⟩
    subst hn
    simp [Int.neg_tdiv]

theorem tdiv_neg (a : Int) (b : Nat) : tdiv (-a) b = -tdiv a b := by
  simp [tdiv_eq, Int.neg_tdiv]

@[simp] theorem tdiv_zero (b : Nat) : tdiv 0 b = 0 := by simp [tdiv_eq]

/-- A quotient by full scale does not grow what was scaled by at most full scale. -/
theorem tdiv_mul_natAbs_le {x : Int} {k b : Nat} (h : k ≤ b) : (tdiv (x * k) b).natAbs ≤ x.natAbs := by
  rw [tdiv_eq, Int.natAbs_tdiv, Int.natAbs_mul]
  rw [Int.natAbs_natCast, Int.natAbs_natCast]
  change x.natAbs * k / b ≤ x.natAbs
  rcases Nat.eq_zero_or_pos b with rfl | hb
  · simp
  · exact Nat.div_le_of_le_mul (by rw [Nat.mul_comm]; exact Nat.mul_le_mul_right _ h)

theorem wrapS_bounds {n : Nat} (hn : 1 ≤ n) (x : Int) :
    -(2 ^ (n - 1) : Nat) ≤ wrapS n x ∧ wrapS n x < (2 ^ (n - 1) : Nat) := by
  have hp : (2 ^ n : Nat) = 2 * 2 ^ (n - 1) := by
    rw [← Nat.pow_succ']; congr 1; omega
  have h2 : (0 : Int) < (2 ^ n : Nat) := by exact_mod_cast Nat.two_pow_pos n
  have h0 := Int.emod_nonneg x (ne_of_gt h2)
  have h1 := Int.emod_lt_of_pos x h2
  simp only [wrapS]
  split <;> omega

/-- A value already in range is emitted as it is (R112). -/
theorem wrapS_of_range {n : Nat} (hn : 1 ≤ n) {x : Int} (hl : -(2 ^ (n - 1) : Nat) ≤ x)
    (hu : x < (2 ^ (n - 1) : Nat)) : wrapS n x = x := by
  have hp : (2 ^ n : Nat) = 2 * 2 ^ (n - 1) := by
    rw [← Nat.pow_succ']; congr 1; omega
  have h2 : (0 : Int) < (2 ^ n : Nat) := by exact_mod_cast Nat.two_pow_pos n
  simp only [wrapS]
  rcases lt_or_ge x 0 with h | h
  · have : x % (2 ^ n : Nat) = x + (2 ^ n : Nat) := by
      rw [← Int.add_emod_right, Int.emod_eq_of_lt] <;> omega
    rw [this]; split <;> omega
  · have : x % (2 ^ n : Nat) = x := Int.emod_eq_of_lt h (by omega)
    rw [this]; split <;> omega

/-! ### Operand reads -/

theorem noteOf_eq (a : Assignment) : noteOf a = a.noteIndex.toNat % 128 := by
  simp [noteOf, BitVec.extractLsb'_toNat]

theorem channelOf_val (a : Assignment) : (channelOf a).val = a.channelIndex.toNat % 16 := by
  show (a.channelIndex.extractLsb' 0 4).toNat = _
  simp [BitVec.extractLsb'_toNat]

theorem velocityOf_eq (a : Assignment) : velocityOf a = a.velocity.toNat % 128 := by
  simp [velocityOf, BitVec.extractLsb'_toNat]

theorem noteOf_lt (a : Assignment) : noteOf a < 128 := by rw [noteOf_eq]; omega

theorem velocityOf_le (a : Assignment) : velocityOf a ≤ 127 := by rw [velocityOf_eq]; omega

theorem bendAt_range (g : GlobalState) (ch : Fin 16) : -128 ≤ bendAt g ch ∧ bendAt g ch ≤ 127 := by
  have h1 := BitVec.le_toInt (x := g.pitchBend[ch])
  have h2 := BitVec.toInt_lt (x := g.pitchBend[ch])
  simp only [bendAt]; omega

theorem isEnabled_eq_true (a : Assignment) : isEnabled a = true ↔ a.enabled ≠ 0 := by simp [isEnabled, flagSet]

theorem isEnabled_eq_false (a : Assignment) : isEnabled a = false ↔ a.enabled = 0 := by simp [isEnabled, flagSet]

end Sys2Proof.Machine
end

