-- ==== Sys2Proof/Laws/Codec.lean ====
section
/-! SUPPORT. Bytes and fields: a field is the concatenation of its bytes, and its bytes are its slices (spec/30_encoding.md R46). -/

namespace Sys2Proof

theorem append_toNat {n m : Nat} (x : BitVec n) (y : BitVec m) : (x ++ y).toNat = x.toNat * 2 ^ m + y.toNat := by
  rw [BitVec.toNat_append, ← Nat.shiftLeft_add_eq_or_of_lt y.isLt, Nat.shiftLeft_eq]

theorem slice_toNat {n : Nat} (v : BitVec n) (k : Nat) : (v.extractLsb' k 8).toNat = v.toNat / 2 ^ k % 256 := by
  rw [BitVec.extractLsb'_toNat, Nat.shiftRight_eq_div_pow]

theorem append_slices16 (v : BitVec 16) : v.extractLsb' 8 8 ++ v.extractLsb' 0 8 = v := by
  apply BitVec.eq_of_toNat_eq
  simp only [append_toNat, slice_toNat]
  have := v.isLt
  omega

theorem append_slices32 (v : BitVec 32) :
    v.extractLsb' 24 8 ++ v.extractLsb' 16 8 ++ v.extractLsb' 8 8 ++ v.extractLsb' 0 8 = v := by
  apply BitVec.eq_of_toNat_eq
  simp only [append_toNat, slice_toNat]
  have := v.isLt
  omega

theorem le16Bytes_append (a b : Byte) : le16Bytes (a ++ b) = [b, a] := by
  have h := append_toNat a b
  have := a.isLt; have := b.isLt
  simp only [le16Bytes, List.cons.injEq, and_true]
  refine ⟨?_, ?_⟩ <;> apply BitVec.eq_of_toNat_eq <;> rw [slice_toNat, h] <;> omega

theorem le32Bytes_append (a b c d : Byte) : le32Bytes (a ++ b ++ c ++ d) = [d, c, b, a] := by
  have h := append_toNat (a ++ b ++ c) d
  rw [append_toNat (a ++ b) c, append_toNat a b] at h
  have := a.isLt; have := b.isLt; have := c.isLt; have := d.isLt
  simp only [le32Bytes, List.cons.injEq, and_true]
  refine ⟨?_, ?_, ?_, ?_⟩ <;> apply BitVec.eq_of_toNat_eq <;> rw [slice_toNat, h] <;> omega

theorem encodeGlobal_length (r : GlobalRecord) : (encodeGlobal r).length = lenGlobal := by
  simp [encodeGlobal, le32Bytes, lenGlobal]

theorem encodeGenerator_length (i : Slot) (rf : Byte) (a : Assignment) :
    (encodeGenerator i rf a).length = lenGenerator := by
  simp [encodeGenerator, le16Bytes, lenGenerator]

/-- All a packet can decode to. -/
theorem decode_cases (c : Cfg) (pkt : Packet) :
    decode c pkt = .pktIgnored ∨ (∃ r, decode c pkt = .pktGlobal r) ∨
      ∃ i rf a, decode c pkt = .pktGenerator i rf a ∧ slotValid c i = true := by
  unfold decode classify
  cases pkt with
  | nil => exact .inl rfl
  | cons tag rest =>
    simp only
    split_ifs with h1 h2 h3 h4 h5
    · exact .inr (.inl ⟨_, rfl⟩)
    · exact .inl rfl
    · exact .inl rfl
    · exact .inl rfl
    · exact .inr (.inr ⟨_, _, _, rfl, by simp [slotValid]; omega⟩)
    · exact .inl rfl

end Sys2Proof
end

