-- ==== Sys2Proof/Laws/Voice.lean ====
section
/-! SUPPORT. What one voice step does, said once (spec/45_mixer_and_tick.md R109), and the bounds of the waveforms, the levels and
the samples. -/

namespace Sys2Proof.Machine

open Sys2Proof

variable {c : Cfg} {g : GlobalState}

/-! ### Phase and life -/

theorem normalised_of_lt {p w : Nat} (h : p < w) : normalised p w = p := by simp [normalised]; omega

theorem normalised_lt {p w : Nat} (h : 1 ≤ w) : normalised p w < w := by
  unfold normalised; split <;> omega

@[simp] theorem normalised_idem (p w : Nat) : normalised (normalised p w) w = normalised p w := by
  by_cases h : w ≤ p <;> simp [normalised, h]

theorem advancedPhase_lt {p w : Nat} (h : 1 ≤ w) : advancedPhase c p w < w := by
  unfold advancedPhase; split <;> omega

theorem advancedLife_lt (l : Nat) : advancedLife c l < 2 ^ c.lifeW := truncU_lt _ _

/-! ### The step of one voice -/

/-- The sample `TICK` computes for a voice (R91, R98, R108). -/
def sampleOf (c : Cfg) (g : GlobalState) (v : Voice) : Int :=
  voiceSample c
    (wave c v.assign.instrument (normalised v.phase (voiceWavelength c g v.assign)) (voiceWavelength c g v.assign))
    (envLevel c (isEnabled v.assign) (elapsed c v.life) v.latched g.env)
    (velocityOf v.assign)

/-- The voice after a `TICK` (R85, R86, R87, R105). -/
def afterTick (c : Cfg) (g : GlobalState) (v : Voice) : Voice :=
  { assign := v.assign
    life := advancedLife c v.life
    phase := advancedPhase c (normalised v.phase (voiceWavelength c g v.assign)) (voiceWavelength c g v.assign)
    latched :=
      if isEnabled v.assign then envLevel c (isEnabled v.assign) (elapsed c v.life) v.latched g.env else v.latched }

/-- The working values after a voice step: all are recomputed but the mixer's (R21). -/
theorem voiceStep_work (l : Lane) :
    (l.voiceStep c g).work =
      { noteFreq := noteFreqAt c (noteOf l.voice.assign)
        freq := voiceFreq c g l.voice.assign
        wavelength := voiceWavelength c g l.voice.assign
        wave := wave c l.voice.assign.instrument (normalised l.voice.phase (voiceWavelength c g l.voice.assign))
          (voiceWavelength c g l.voice.assign)
        level := envLevel c (isEnabled l.voice.assign) (elapsed c l.voice.life) l.voice.latched g.env
        sample := sampleOf c g l.voice
        acc := l.work.acc
        out := l.work.out } := by
  rcases he : isEnabled l.voice.assign with _ | _ <;>
    simp [Lane.voiceStep, Lane.noteToFrequency, Lane.applyPitchBend, Lane.frequencyToWavelength, Lane.phaseNormalise,
      Lane.waveStep, Lane.envStep, Lane.latchUpdate, Lane.voiceScale, Lane.lifeAdvance, Lane.phaseAdvance, sampleOf,
      envLevel, Voice.envState, voiceWavelength, voiceFreq, he]

/-- The voice after a voice step. -/
theorem voiceStep_voice (l : Lane) : (l.voiceStep c g).voice = afterTick c g l.voice := by
  rcases he : isEnabled l.voice.assign with _ | _ <;>
    simp [Lane.voiceStep, Lane.noteToFrequency, Lane.applyPitchBend, Lane.frequencyToWavelength, Lane.phaseNormalise,
      Lane.waveStep, Lane.envStep, Lane.latchUpdate, Lane.voiceScale, Lane.lifeAdvance, Lane.phaseAdvance, afterTick,
      envLevel, Voice.envState, voiceWavelength, voiceFreq, he]

@[simp] theorem runVoice_voice (v : Voice) : (runVoice c g v).voice = afterTick c g v := voiceStep_voice _

@[simp] theorem runVoice_sample (v : Voice) : (runVoice c g v).work.sample = sampleOf c g v := by
  rw [runVoice, voiceStep_work]

/-- MIX_ACCUMULATE, written out. -/
theorem mixAccumulate_eq (s : State) :
    mixAccumulate s =
      { s with
        v := s.v.map (afterTick s.cfg s.g)
        work := { s.work with acc := (s.v.map (sampleOf s.cfg s.g)).sum } } := by
  simp [mixAccumulate, runVoices, State.setV, State.setWork, Function.comp_def]

/-- The sample a `TICK` emits (R111, R112). -/
def tickOut (s : State) : Int :=
  wrapS s.cfg.outW (mixOut s.cfg s.g.masterVolume (s.v.map (sampleOf s.cfg s.g)).sum)

/-- TICK, written out. -/
theorem execTick_eq (s : State) :
    execTick s =
      .next { s with
        v := s.v.map (afterTick s.cfg s.g)
        work := Work.idle
        emitted := s.emitted ++ [tickOut s] } := by
  simp [execTick, done, mixAccumulate_eq, mixScale, finishTick, State.setWork, State.emit, tickOut]

/-! ### Bounds -/

theorem square_natAbs (p w : Nat) : (square c p w).natAbs = c.sampleMax := by
  unfold square; split <;> simp

theorem triangle_bounds {p w : Nat} (hw : 1 ≤ w) :
    -(c.sampleMax : Int) ≤ triangle c p w ∧ triangle c p w ≤ c.sampleMax := by
  have h : 4 * c.sampleMax * min p (w - p) / w ≤ 2 * c.sampleMax := by
    apply Nat.div_le_of_le_mul
    have : 2 * min p (w - p) ≤ w := by omega
    nlinarith
  simp only [triangle]
  generalize 4 * c.sampleMax * min p (w - p) / w = q at h ⊢
  omega

theorem sawtooth_bounds {p w : Nat} (h : p < w) :
    -(c.sampleMax : Int) ≤ sawtooth c p w ∧ sawtooth c p w ≤ c.sampleMax := by
  have h : 2 * c.sampleMax * p / w ≤ 2 * c.sampleMax := by
    apply Nat.div_le_of_le_mul
    rw [Nat.mul_comm w]
    exact Nat.mul_le_mul_left _ (Nat.le_of_lt h)
  simp only [sawtooth]
  generalize 2 * c.sampleMax * p / w = q at h ⊢
  omega

/-- The sine index stays in the table (R32). -/
theorem sine_index_lt {p w : Nat} (h : p < w) (hs : 1 ≤ c.sineLutSize) : p * c.sineLutSize / w < c.sineLutSize := by
  apply Nat.div_lt_of_lt_mul
  exact Nat.mul_lt_mul_of_pos_right h hs

theorem releaseLevel_le (t L : Nat) (e : Envelope) : releaseLevel t L e ≤ L := by
  unfold releaseLevel
  split
  · apply Nat.div_le_of_le_mul
    rw [Nat.mul_comm e.release]
    exact Nat.mul_le_mul_left _ (Nat.sub_le _ _)
  · exact Nat.zero_le _

theorem attackLevel_le {t : Nat} {e : Envelope} (h : t < e.attack) : attackLevel c t e ≤ c.envFull := by
  unfold attackLevel
  apply Nat.div_le_of_le_mul
  rw [Nat.mul_comm e.attack]
  exact Nat.mul_le_mul_left _ (Nat.le_of_lt h)

/-- The level never exceeds full scale (R98). -/
theorem envLevel_le {en : Bool} {t L : Nat} {e : Envelope} (hL : L ≤ c.envFull) (hS : e.sustain ≤ c.envFull) :
    envLevel c en t L e ≤ c.envFull := by
  unfold envLevel envState
  split
  · exact Nat.le_trans (releaseLevel_le t L e) hL
  · split
    · exact attackLevel_le ‹_›
    · split
      · exact Nat.sub_le _ _
      · exact hS

theorem voiceSample_natAbs_le {x : Int} {lvl vel : Nat} (hl : lvl ≤ c.envFull) (hv : vel ≤ c.velocityMax) :
    (voiceSample c x lvl vel).natAbs ≤ x.natAbs :=
  Nat.le_trans (tdiv_mul_natAbs_le hv) (tdiv_mul_natAbs_le hl)

theorem sum_natAbs_le {l : List Int} {m : Nat} (h : ∀ x ∈ l, x.natAbs ≤ m) : l.sum.natAbs ≤ l.length * m := by
  induction l with
  | nil => simp
  | cons x xs ih =>
    have h1 := h x (by simp)
    have h2 := ih (fun y hy => h y (by simp [hy]))
    have h3 := Int.natAbs_add_le x xs.sum
    simp only [List.sum_cons, List.length_cons, Nat.succ_mul]
    omega

end Sys2Proof.Machine
end

