-- ==== Sys2Proof/Laws/Exec.lean ====
section
/-! SUPPORT. What `exec` answers for each operation, and what a step answers: the equations later proofs cite instead of unfolding
the dispatch. -/

namespace Sys2Proof.Machine

open Sys2Proof

variable (s : State) (i : Slot)

/-! ### One equation per operation -/

theorem exec_reset : exec .reset s = .next (resetBlock s) := rfl
theorem exec_tick :
    exec .tick s =
      .next { s with v := s.v.map (afterTick s.cfg s.g), work := Work.idle, emitted := s.emitted ++ [tickOut s] } :=
  execTick_eq s
theorem exec_pktGlobal (r : GlobalRecord) : exec (.pktGlobal r) s = .next (s.setG (storeGlobal s.cfg r)) := rfl
theorem exec_pktGenerator (rf : Byte) (a : Assignment) :
    exec (.pktGenerator i rf a) s = .next (s.modifyVoice i (assignVoice rf a)) := rfl
theorem exec_pktIgnored : exec .pktIgnored s = .next s := rfl
theorem exec_waveSquare : exec (.waveSquare i) s = .next (s.onSlot i (Lane.waveStep s.cfg .square)) := rfl
theorem exec_waveTriangle : exec (.waveTriangle i) s = .next (s.onSlot i (Lane.waveStep s.cfg .triangle)) := rfl
theorem exec_waveSawtooth : exec (.waveSawtooth i) s = .next (s.onSlot i (Lane.waveStep s.cfg .sawtooth)) := rfl
theorem exec_waveSine : exec (.waveSine i) s = .next (s.onSlot i (Lane.waveStep s.cfg .sine)) := rfl
theorem exec_waveNone : exec (.waveNone i) s = .next (s.onSlot i (Lane.waveStep s.cfg .silent)) := rfl
theorem exec_envRelease : exec (.envRelease i) s = .next (s.onSlot i (Lane.envStep s.cfg s.g .release)) := rfl
theorem exec_envAttack : exec (.envAttack i) s = .next (s.onSlot i (Lane.envStep s.cfg s.g .attack)) := rfl
theorem exec_envDecay : exec (.envDecay i) s = .next (s.onSlot i (Lane.envStep s.cfg s.g .decay)) := rfl
theorem exec_envSustain : exec (.envSustain i) s = .next (s.onSlot i (Lane.envStep s.cfg s.g .sustain)) := rfl
theorem exec_noteToFrequency : exec (.noteToFrequency i) s = .next (s.onSlot i (Lane.noteToFrequency s.cfg)) := rfl
theorem exec_applyPitchBend : exec (.applyPitchBend i) s = .next (s.onSlot i (Lane.applyPitchBend s.cfg s.g)) := rfl
theorem exec_frequencyToWavelength : exec (.frequencyToWavelength i) s = .next (s.onSlot i (Lane.frequencyToWavelength s.cfg)) := rfl
theorem exec_phaseNormalise : exec (.phaseNormalise i) s = .next (s.onSlot i Lane.phaseNormalise) := rfl
theorem exec_latchUpdate : exec (.latchUpdate i) s = .next (s.onSlot i Lane.latchUpdate) := rfl
theorem exec_voiceScale : exec (.voiceScale i) s = .next (s.onSlot i (Lane.voiceScale s.cfg)) := rfl
theorem exec_lifeAdvance : exec (.lifeAdvance i) s = .next (s.onSlot i (Lane.lifeAdvance s.cfg)) := rfl
theorem exec_phaseAdvance : exec (.phaseAdvance i) s = .next (s.onSlot i (Lane.phaseAdvance s.cfg)) := rfl
theorem exec_voiceStep : exec (.voiceStep i) s = .next (s.onSlot i (Lane.voiceStep s.cfg s.g)) := rfl
theorem exec_mixAccumulate : exec .mixAccumulate s = .next (mixAccumulate s) := rfl
theorem exec_mixScale : exec .mixScale s = .next (mixScale s) := rfl

/-- The selected waveform step is the step of the selected waveform (R48, R54). -/
theorem exec_decodeSelector (k : Byte) :
    exec (decodeSelector k i) s = .next (s.onSlot i (Lane.waveStep s.cfg (waveformOf k))) := by
  unfold decodeSelector; cases waveformOf k <;> rfl

/-- The selected envelope step is the step of the selected state (R54, R100). -/
theorem exec_envInstr (k : EnvState) :
    exec (envInstr k i) s = .next (s.onSlot i (Lane.envStep s.cfg s.g k)) := by
  cases k <;> rfl

/-! ### Steps -/

variable {s}

/-- Every step of a valid configuration: either the taken event selects an operation, which runs, or it only changes the
surroundings. -/
theorem step_valid (h : s.cfg.valid = true) :
    step s = match takeNext s with
      | (some j, t) => exec j t
      | (none, t) => .next t := by
  unfold step; exact if_pos h

theorem step_cons {e : Event} {es : List Event} (h : s.cfg.valid = true) (he : s.inputs = e :: es) :
    step s = match takeEvent e (s.setInputs es) with
      | (some j, t) => exec j t
      | (none, t) => .next t := by
  rw [step_valid h, takeNext, he]

/-- A run peels off its first step. -/
theorem run_succ (M : Host.Core) (n : Nat) (s t : M.State) (h : M.step s = .next t) : M.run (n + 1) s = M.run n t := by
  simp only [Host.Core.run, h]

theorem run_next {n : Nat} {s t : State} (h : step s = .next t) : core.run (n + 1) s = core.run n t :=
  run_succ core n s t h

/-- All an event can select: an operation an event selects, in a state that differs in its surroundings only; or no operation, with the
block's state as it was. -/
theorem takeNext_cases (s : State) :
    (∃ j t, takeNext s = (some j, t) ∧ selectedByEvent j = true ∧ t.cfg = s.cfg ∧ t.g = s.g ∧ t.v = s.v ∧
      t.work = s.work ∧ t.control = s.control ∧ t.emitted = s.emitted) ∨
    (∃ t, takeNext s = (none, t) ∧ t.cfg = s.cfg ∧ t.g = s.g ∧ t.v = s.v ∧ t.work = s.work ∧
      t.emitted = s.emitted) := by
  unfold takeNext
  cases s.inputs with
  | nil => exact .inr ⟨s, rfl, rfl, rfl, rfl, rfl, rfl⟩
  | cons e es =>
    have hd : ∀ pkt, selectedByEvent (decode s.cfg pkt) = true := fun pkt => by
      rcases decode_cases s.cfg pkt with h | ⟨r, h⟩ | ⟨i, rf, a, h, -⟩ <;> rw [h] <;> rfl
    cases e with
    | reset => exact .inl ⟨_, _, rfl, rfl, rfl, rfl, rfl, rfl, rfl, rfl⟩
    | tick => exact .inl ⟨_, _, rfl, rfl, rfl, rfl, rfl, rfl, rfl, rfl⟩
    | cmd pkt => exact .inl ⟨_, _, rfl, hd pkt, rfl, rfl, rfl, rfl, rfl, rfl⟩
    | deliver =>
      simp only [takeEvent, deliverNext, State.setInputs_link]
      cases hl : s.link with
      | nil => exact .inr ⟨_, rfl, rfl, rfl, rfl, rfl, rfl⟩
      | cons p ps => exact .inl ⟨_, _, rfl, hd p, rfl, rfl, rfl, rfl, rfl, rfl⟩
    | midi msg => exact .inr ⟨_, rfl, rfl, rfl, rfl, rfl, rfl⟩
    | hostStart r sync => exact .inr ⟨_, rfl, rfl, rfl, rfl, rfl, rfl⟩
    | hostSet vol env => exact .inr ⟨_, rfl, rfl, rfl, rfl, rfl, rfl⟩

end Sys2Proof.Machine
end

