-- ==== Sys2Proof/Laws/Host.lean ====
section
/-! SUPPORT. The host's procedures: what a message can ask, and what the two scans of its table give
(spec/40_host_control_plane.md R57, R58, R64, R65). -/

namespace Sys2Proof.Machine

open Sys2Proof

/-- A slot's record stands in the table of a conforming host. -/
theorem entry_mem {h : ControlPlane} {n j : Nat} (hc : h.Conforms n) (hj : j < n) : h.entry j ∈ h.table := by
  unfold ControlPlane.entry
  have : j < h.table.length := by rw [hc.1]; exact hj
  rw [List.getD_eq_getElem _ _ this]; exact List.getElem_mem this

/-- Reading a table in which one slot was written. -/
theorem entry_set {h : ControlPlane} {g c i} {j k : Nat} {a} (hj : j < h.table.length) :
    (⟨g, h.table.set j a, c, i⟩ : ControlPlane).entry k = if j = k then a else h.entry k := by
  unfold ControlPlane.entry
  simp only [List.getD, List.getElem?_set]
  split
  · rfl
  · rfl

/-- What a message can ask: nothing; or one of the three consumed types on a channel other than 9, its bytes in order (R57, R58). -/
theorem parseMidi_cases (msg : Packet) :
   (parseMidi msg = .malformed ∨ parseMidi msg = .ignored) ∨
   (midiBytesOk msg = true ∧ midiChannel msg ≠ 9 ∧
    ((midiType msg = 8 ∧ parseMidi msg = .noteOff (midiChannel msg) (byteAt msg 1) (byteAt msg 2)) ∨
     (midiType msg = 9 ∧ parseMidi msg = .noteOn (midiChannel msg) (byteAt msg 1) (byteAt msg 2)) ∨
     (midiType msg = 0xE ∧ parseMidi msg = .pitchBend (midiChannel msg) (byteAt msg 1) (byteAt msg 2)))) := by
  unfold parseMidi
  rcases hok : midiBytesOk msg with _ | _
  · simp
  · simp only [Bool.not_true, Bool.false_eq_true, if_false]
    split
    · next ht =>
      split
      · simp
      · split
        · simp
        · next h9 =>
          rcases ht with h | h | h
          · simp [h]; exact h9
          · simp [h]; exact h9
          · simp [h]; exact h9
    · simp

/-- `find_matching` finds none exactly when no slot is enabled with the pair (R65). -/
theorem findMatching_eq_none {n h note ch} :
    findMatching n h note ch = none ↔
      ∀ k < n, ¬ ((h.entry k).enabled ≠ 0 ∧ (h.entry k).noteIndex = note ∧ (h.entry k).channelIndex = ch) := by
  unfold findMatching
  rw [List.find?_eq_none]
  simp only [List.mem_range, Bool.and_eq_true, beq_iff_eq, isEnabled_eq_true, and_assoc]

/-- `find_matching` finds the first slot that is enabled with the pair (R65). -/
theorem findMatching_eq_some {n h note ch j} (hj : j < n)
    (h0 : (h.entry j).enabled ≠ 0 ∧ (h.entry j).noteIndex = note ∧ (h.entry j).channelIndex = ch)
    (hlt : ∀ k < j, ¬ ((h.entry k).enabled ≠ 0 ∧ (h.entry k).noteIndex = note ∧ (h.entry k).channelIndex = ch)) :
    findMatching n h note ch = some j := by
  unfold findMatching
  rw [List.find?_eq_some_iff_getElem]
  refine ⟨by simp only [Bool.and_eq_true, beq_iff_eq, isEnabled_eq_true, and_assoc]; exact h0, j, by simpa using hj, by simp, ?_⟩
  intro k hk
  have := hlt k hk
  rw [← isEnabled_eq_true] at this
  simp only [List.getElem_range]
  rw [Bool.not_eq_true']
  rw [← Bool.not_eq_true]
  simpa only [Bool.and_eq_true, beq_iff_eq, and_assoc] using this

theorem findMatching_lt {n h note ch j} (hj : findMatching n h note ch = some j) : j < n := by
  have := List.mem_of_find?_eq_some hj
  simpa using this

/-- The slot `find_vacant` gives lies on the scan from the cursor (R64). -/
theorem findVacant_some {n : Nat} {h : ControlPlane} {j : Nat} (hj : findVacant n h = some j) :
    ∃ k < n, j = (h.cursor + k) % n := by
  have := List.mem_of_find?_eq_some hj
  simp at this
  obtain ⟨k, hk, rfl⟩ := this
  exact ⟨k, hk, rfl⟩

theorem findVacant_lt {n : Nat} {h : ControlPlane} {j : Nat} (hj : findVacant n h = some j) : j < n := by
  obtain ⟨k, hk, rfl⟩ := findVacant_some hj
  exact Nat.mod_lt _ (by omega)

end Sys2Proof.Machine
end

