-- ==== Sys2Proof/Laws/PerInstr.lean ====
section
/-! SUPPORT. Statements about every operation as syntax, one lemma per constructor. -/

namespace Sys2Proof.Laws

open Sys2Proof

/-- The slots an operation names. -/
def slotsOf : Instr → List Slot
  | .reset => []
  | .tick => []
  | .pktGlobal _ => []
  | .pktGenerator j _ _ => [j]
  | .pktIgnored => []
  | .waveSquare j => [j]
  | .waveTriangle j => [j]
  | .waveSawtooth j => [j]
  | .waveSine j => [j]
  | .waveNone j => [j]
  | .envRelease j => [j]
  | .envAttack j => [j]
  | .envDecay j => [j]
  | .envSustain j => [j]
  | .noteToFrequency j => [j]
  | .applyPitchBend j => [j]
  | .frequencyToWavelength j => [j]
  | .phaseNormalise j => [j]
  | .latchUpdate j => [j]
  | .voiceScale j => [j]
  | .lifeAdvance j => [j]
  | .phaseAdvance j => [j]
  | .voiceStep j => [j]
  | .mixAccumulate => []
  | .mixScale => []

/-- An operation is well-formed exactly when every slot it names exists (spec/20_memory.md R29). -/
def SlotBound.Statement (i : Instr) : Prop :=
  ∀ c : Cfg, i.wf c = true ↔ ∀ j ∈ slotsOf i, j.toNat < c.nGenerators

theorem SlotBound.reset : SlotBound.Statement .reset := fun c => by simp [Instr.wf, slotsOf]
theorem SlotBound.tick : SlotBound.Statement .tick := fun c => by simp [Instr.wf, slotsOf]
theorem SlotBound.pktGlobal (r : GlobalRecord) : SlotBound.Statement (.pktGlobal r) := fun c => by simp [Instr.wf, slotsOf]
theorem SlotBound.pktGenerator (j : Slot) (rf : Byte) (a : Assignment) : SlotBound.Statement (.pktGenerator j rf a) := fun c => by simp [Instr.wf, slotsOf, slotValid]
theorem SlotBound.pktIgnored : SlotBound.Statement .pktIgnored := fun c => by simp [Instr.wf, slotsOf]
theorem SlotBound.waveSquare (j : Slot) : SlotBound.Statement (.waveSquare j) := fun c => by simp [Instr.wf, slotsOf, slotValid]
theorem SlotBound.waveTriangle (j : Slot) : SlotBound.Statement (.waveTriangle j) := fun c => by simp [Instr.wf, slotsOf, slotValid]
theorem SlotBound.waveSawtooth (j : Slot) : SlotBound.Statement (.waveSawtooth j) := fun c => by simp [Instr.wf, slotsOf, slotValid]
theorem SlotBound.waveSine (j : Slot) : SlotBound.Statement (.waveSine j) := fun c => by simp [Instr.wf, slotsOf, slotValid]
theorem SlotBound.waveNone (j : Slot) : SlotBound.Statement (.waveNone j) := fun c => by simp [Instr.wf, slotsOf, slotValid]
theorem SlotBound.envRelease (j : Slot) : SlotBound.Statement (.envRelease j) := fun c => by simp [Instr.wf, slotsOf, slotValid]
theorem SlotBound.envAttack (j : Slot) : SlotBound.Statement (.envAttack j) := fun c => by simp [Instr.wf, slotsOf, slotValid]
theorem SlotBound.envDecay (j : Slot) : SlotBound.Statement (.envDecay j) := fun c => by simp [Instr.wf, slotsOf, slotValid]
theorem SlotBound.envSustain (j : Slot) : SlotBound.Statement (.envSustain j) := fun c => by simp [Instr.wf, slotsOf, slotValid]
theorem SlotBound.noteToFrequency (j : Slot) : SlotBound.Statement (.noteToFrequency j) := fun c => by simp [Instr.wf, slotsOf, slotValid]
theorem SlotBound.applyPitchBend (j : Slot) : SlotBound.Statement (.applyPitchBend j) := fun c => by simp [Instr.wf, slotsOf, slotValid]
theorem SlotBound.frequencyToWavelength (j : Slot) : SlotBound.Statement (.frequencyToWavelength j) := fun c => by simp [Instr.wf, slotsOf, slotValid]
theorem SlotBound.phaseNormalise (j : Slot) : SlotBound.Statement (.phaseNormalise j) := fun c => by simp [Instr.wf, slotsOf, slotValid]
theorem SlotBound.latchUpdate (j : Slot) : SlotBound.Statement (.latchUpdate j) := fun c => by simp [Instr.wf, slotsOf, slotValid]
theorem SlotBound.voiceScale (j : Slot) : SlotBound.Statement (.voiceScale j) := fun c => by simp [Instr.wf, slotsOf, slotValid]
theorem SlotBound.lifeAdvance (j : Slot) : SlotBound.Statement (.lifeAdvance j) := fun c => by simp [Instr.wf, slotsOf, slotValid]
theorem SlotBound.phaseAdvance (j : Slot) : SlotBound.Statement (.phaseAdvance j) := fun c => by simp [Instr.wf, slotsOf, slotValid]
theorem SlotBound.voiceStep (j : Slot) : SlotBound.Statement (.voiceStep j) := fun c => by simp [Instr.wf, slotsOf, slotValid]
theorem SlotBound.mixAccumulate : SlotBound.Statement .mixAccumulate := fun c => by simp [Instr.wf, slotsOf]
theorem SlotBound.mixScale : SlotBound.Statement .mixScale := fun c => by simp [Instr.wf, slotsOf]

end Sys2Proof.Laws
end

