-- ==== Sys2Proof/Laws/Validity.lean ====
section
/-! SUPPORT. What a valid configuration gives (spec/00_scope.md R8): the bent frequency grows with the bend and the wavelength falls
with the frequency, so the two extreme bends bound every wavelength; and the reference configuration is valid. -/

namespace Sys2Proof.Machine

open Sys2Proof

variable {c : Cfg}

/-- The reference configuration meets R8 (spec/95_test_vectors.md section 2.1). -/
theorem reference_valid : Cfg.reference.valid = true := by
  set_option maxRecDepth 4000 in decide

theorem bendFactor_mono {b b' : Int} (h : b ≤ b') : bendFactor c b ≤ bendFactor c b' := by
  unfold bendFactor
  have := Int.mul_le_mul_of_nonneg_right h (Int.natCast_nonneg c.bendLinearScale)
  omega

theorem bendFrequency_mono (f : Nat) {b b' : Int} (h : b ≤ b') : bendFrequency c f b ≤ bendFrequency c f b' := by
  unfold bendFrequency
  apply Int.toNat_le_toNat
  apply Int.ediv_le_ediv (by exact_mod_cast Nat.two_pow_pos _)
  exact Int.mul_le_mul_of_nonneg_left (bendFactor_mono h) (Int.natCast_nonneg f)

theorem wavelengthOf_antitone {f f' : Nat} (h1 : 1 ≤ f) (h : f ≤ f') : wavelengthOf c f' ≤ wavelengthOf c f := by
  unfold wavelengthOf
  rw [if_neg (by omega), if_neg (by omega)]
  exact Nat.div_le_div_left h h1

/-- A doubled bound forces a width of at least 1, and is the bound of R8 item 7. -/
theorem doubled_le {m w : Nat} (h : 2 * (m + 1) ≤ 2 ^ w) : 1 ≤ w ∧ m ≤ 2 ^ (w - 1) - 1 := by
  cases w with
  | zero => rw [Nat.pow_zero] at h; omega
  | succ w =>
    rw [Nat.pow_succ] at h
    simp only [Nat.add_sub_cancel]
    omega

/-- The checks of `Cfg.valid` as propositions, in the order of R8. -/
theorem valid_iff :
    c.valid = true ↔
    (1 ≤ c.nGenerators ∧ c.nGenerators ≤ 65536) ∧
    1 ≤ c.lifeScale ∧
    (c.bendLinearOffset = 2 ^ c.bendShift ∧ 128 * c.bendLinearScale < c.bendLinearOffset) ∧
    (∀ n < 128, 1 ≤ noteFreqAt c n ∧ 1 ≤ c.bent n (-128) ∧
      wavelengthOf c (c.bent n (-128)) + c.lifeScale < 2 ^ c.phaseW ∧ 1 ≤ wavelengthOf c (c.bent n 127)) ∧
    (2 * (c.sampleMax + 1) = 2 ^ c.sampleW ∧ c.envFull + 1 = 2 ^ c.levelW ∧ c.velocityMax = 127) ∧
    (2 * (c.nGenerators * c.sampleMax + 1) ≤ 2 ^ c.accW ∧
      2 * (c.nGenerators * c.sampleMax * 255 * 2 ^ c.headroomShift + 1) ≤ 2 ^ c.outW) ∧
    (1 ≤ c.sineLutSize ∧ c.sineLutSize ≤ c.sineLut.length ∧
      ∀ x ∈ c.sineLut.take c.sineLutSize, -(c.sampleMax : Int) ≤ x ∧ x ≤ c.sampleMax) := by
  simp [Cfg.valid, Cfg.noteOk, and_assoc]

/-- What a valid configuration gives about its sizes and scales. -/
theorem valid_sizes (h : c.valid = true) :
    1 ≤ c.nGenerators ∧ c.nGenerators ≤ 65536 ∧ 1 ≤ c.lifeScale ∧ c.envFull + 1 = 2 ^ c.levelW ∧ c.velocityMax = 127 ∧
      1 ≤ c.sineLutSize := by
  obtain ⟨⟨h1, h2⟩, h3, -, -, ⟨-, h4, h5⟩, -, ⟨h6, -⟩⟩ := valid_iff.1 h
  exact ⟨h1, h2, h3, h4, h5, h6⟩

/-- The mixer's bounds (R8 item 7). -/
theorem valid_mixer (h : c.valid = true) :
    (1 ≤ c.accW ∧ c.nGenerators * c.sampleMax ≤ 2 ^ (c.accW - 1) - 1) ∧
      (1 ≤ c.outW ∧ c.nGenerators * c.sampleMax * 255 * 2 ^ c.headroomShift ≤ 2 ^ (c.outW - 1) - 1) := by
  obtain ⟨-, -, -, -, -, ⟨ha, ho⟩, -⟩ := valid_iff.1 h
  exact ⟨doubled_le ha, doubled_le ho⟩

/-- Every wavelength of a valid configuration is at least 1 and leaves room for one increment (R8 item 5). -/
theorem valid_wavelength (h : c.valid = true) (g : GlobalState) (a : Assignment) :
    1 ≤ voiceWavelength c g a ∧ voiceWavelength c g a + c.lifeScale < 2 ^ c.phaseW := by
  obtain ⟨-, -, -, hw, -⟩ := valid_iff.1 h
  obtain ⟨-, h1, h2, h3⟩ := hw (noteOf a) (noteOf_lt a)
  obtain ⟨hb1, hb2⟩ := bendAt_range g (channelOf a)
  have hlo : c.bent (noteOf a) (-128) ≤ voiceFreq c g a := bendFrequency_mono _ hb1
  have hhi : voiceFreq c g a ≤ c.bent (noteOf a) 127 := bendFrequency_mono _ hb2
  have ha := wavelengthOf_antitone (c := c) h1 hlo
  have hb := wavelengthOf_antitone (c := c) (Nat.le_trans h1 hlo) hhi
  unfold voiceWavelength
  omega

theorem sineAt_bounds (h : c.valid = true) {k : Nat} (hk : k < c.sineLutSize) :
    -(c.sampleMax : Int) ≤ sineAt c k ∧ sineAt c k ≤ c.sampleMax := by
  obtain ⟨-, -, -, -, -, -, ⟨-, hl, hx⟩⟩ := valid_iff.1 h
  have hk' : k < c.sineLut.length := by omega
  unfold sineAt
  rw [List.getD_eq_getElem _ _ hk']
  exact hx _ (List.mem_take_iff_getElem.2 ⟨k, by omega, rfl⟩)

end Sys2Proof.Machine
end

