-- ==== Sys2Proof/Tests/Slice0.lean ====
section
/-! SUPPORT. The model's own tests. Expected values are those of spec/95_test_vectors.md, by the identifier each test names, or
worked by hand from the rule named. The witnesses show, for each obligation with hypotheses, a concrete case that meets them. -/

namespace Sys2Proof.Tests

open Sys2Proof Sys2Proof.Machine

/-! ### Small states -/

/-- An enabled voice of note 58 at full velocity on channel 0. -/
def voice (instrument : Byte) (life phase latched : Nat) : Voice := ⟨⟨1, instrument, 0x3A, 0, 0x7F⟩, life, phase, latched⟩

/-- The same voice disabled. -/
def released (life latched : Nat) : Voice := ⟨⟨0, 0, 0x3A, 0, 0x7F⟩, life, 0, latched⟩

/-- The state after reset with `v` in slot 15, a volume of 1 and the given envelope. -/
def playing (v : Voice) (a d s r : Nat) : State :=
  { State.reset with g := ⟨1, ⟨a, d, s, r⟩, State.reset.g.pitchBend⟩, v := State.reset.v.set 15 v }

/-- That state in the middle of a `TICK`. -/
def during (v : Voice) (w : Work) : State := { playing v 4 4 128 4 with work := w }

/-- What the state holds after an operation. -/
def after {α : Type} (o : Host.Outcome State Fault Refusal) (f : State → α) : Option α :=
  match o with
  | .next t => some (f t)
  | .fault _ => none
  | .refused _ => none

/-- Slot 15. -/
def v15 (s : State) : Voice := s.v.getD 15 Voice.zero

/-! ### Well-formedness: each operation that names a slot refuses slot 16 of 16 (R29) -/

theorem test_wf_refuses_bad_slot :
    (∀ k ∈ [0, 1, 2], Instr.wf Cfg.reference (.pktGenerator 16 k zeroAssignment) = false) ∧
    (∀ f ∈ [Instr.waveSquare, .waveTriangle, .waveSawtooth, .waveSine, .waveNone, .envRelease, .envAttack, .envDecay,
      .envSustain, .noteToFrequency, .applyPitchBend, .frequencyToWavelength, .phaseNormalise, .latchUpdate, .voiceScale,
      .lifeAdvance, .phaseAdvance, .voiceStep],
      Instr.wf Cfg.reference (f 16) = false ∧ Instr.wf Cfg.reference (f 65535) = false ∧
      Instr.wf Cfg.reference (f 15) = true) := by decide

/-- A configuration that breaks R8 is refused by the check, one item of R8 at a time. -/
theorem test_config_check_refuses :
    ({ Cfg.reference with nGenerators := 0 }).valid = false ∧
    ({ Cfg.reference with lifeScale := 0 }).valid = false ∧
    ({ Cfg.reference with noteFreq := [1] }).valid = false ∧
    ({ Cfg.reference with bendLinearScale := 512 }).valid = false := by
  set_option maxRecDepth 4000 in decide

theorem test_config_check_refuses_widths :
    ({ Cfg.reference with sampleRate := 1 }).valid = false ∧
    ({ Cfg.reference with envFull := 256 }).valid = false ∧
    ({ Cfg.reference with outW := 31 }).valid = false ∧
    ({ Cfg.reference with accW := 0 }).valid = false ∧
    ({ Cfg.reference with sineLut := [0] }).valid = false ∧
    ({ Cfg.reference with sineLutSize := 1, sineLut := [32768] }).valid = false := by
  set_option maxRecDepth 4000 in decide

/-- R8 says nothing of `LIFE_W` and `DUR_W`, so a width of 0 is no ground for a refusal (R117). -/
theorem test_config_check_admits_zero_widths : ({ Cfg.reference with lifeW := 0, durW := 0 }).valid = true := by
  set_option maxRecDepth 4000 in decide

/-! ### Decoding: words written out from the layouts of R41, R42 and the codes of R48 -/

/-- T-PKT-1: bits 7..0 are the tag; every field then follows with its least significant byte lowest. -/
theorem test_decode_global_word :
    decodeTableWord 248 (0x01 + 0xC8 * 2 ^ 8 + 0x2710 * 2 ^ 16 + 0x3E8 * 2 ^ 48 + 0xB4 * 2 ^ 80 + 0x1388 * 2 ^ 88 +
        0x7F80FF0100 * 2 ^ 120) =
      some (.pktGlobal ⟨200, ⟨10000, 1000, 180, 5000⟩,
        #v[0, 1, -1, -128, 127, 0, 0, 0, 0, 0, 0, 0, 0, 0, 0, 0]⟩) := by decide

/-- T-PKT-2, bit by bit: tag 2, slot 15, flag 0, enabled 1, instrument 3, note 0x45, channel 10, velocity 100. -/
theorem test_decode_generator_word :
    decodeTableWord 72 0b01100100_00001010_01000101_00000011_00000001_00000000_00000000_00001111_00000010 =
      some (.pktGenerator 15 0 ⟨1, 3, 0x45, 10, 100⟩) := by decide

/-- T-PKT-13. -/
theorem test_decode_enabled_80 :
    decode Cfg.reference [0x02, 0x05, 0x00, 0x00, 0x80, 0x00, 0x3A, 0x00, 0x7F] =
      .pktGenerator 5 0 ⟨0x80, 0, 0x3A, 0, 0x7F⟩ := by decide

/-- T-PKT-3 to T-PKT-9 and T-PKT-11, with the class of R51 for each. -/
theorem test_decode_ignored :
    classify Cfg.reference [0x02, 0x10, 0x00, 0x01, 0x01, 0x00, 0x3A, 0x00, 0x7F] = .error .badSlot ∧
    classify Cfg.reference [0x02, 0x00, 0x01, 0x01, 0x01, 0x00, 0x3A, 0x00, 0x7F] = .error .badSlot ∧
    classify Cfg.reference [0x03, 0xAA] = .error .unknownTag ∧
    classify Cfg.reference [0x01, 0xFF, 0x00] = .error .shortGlobal ∧
    classify Cfg.reference [0x02, 0x00, 0x00, 0x01] = .error .shortGenerator ∧
    classify Cfg.reference [] = .error .empty ∧
    classify Cfg.reference (List.replicate 31 0) = .error .unknownTag ∧
    classify Cfg.reference (0x01 :: List.replicate 29 0) = .error .shortGlobal ∧
    decodeTableWord 8 0xFF = some .pktIgnored := by decide

/-- The selector codes of R48, each byte written out. -/
theorem test_decode_selectors :
    decodeSelector 0b00000000 15 = .waveSquare 15 ∧ decodeSelector 0b00000001 15 = .waveTriangle 15 ∧
    decodeSelector 0b00000010 15 = .waveSawtooth 15 ∧ decodeSelector 0b00000011 15 = .waveSine 15 ∧
    decodeSelector 0b00000100 15 = .waveNone 15 ∧ decodeSelector 0b11111111 15 = .waveNone 15 := by decide

theorem test_encode_selectors :
    ∀ k ∈ [Waveform.square, .triangle, .sawtooth, .sine], (encodeSelector k).map waveformOf = some k := by decide

/-- P1's note-on and T-PKT-1, encoded. -/
theorem test_encode :
    encode (.pktGenerator 0 1 ⟨1, 0, 0x30, 0, 0x7F⟩) = some [0x02, 0x00, 0x00, 0x01, 0x01, 0x00, 0x30, 0x00, 0x7F] ∧
    encode (.pktGlobal ⟨200, ⟨10000, 1000, 180, 5000⟩,
        #v[0, 1, -1, -128, 127, 0, 0, 0, 0, 0, 0, 0, 0, 0, 0, 0]⟩) =
      some [0x01, 0xC8, 0x10, 0x27, 0x00, 0x00, 0xE8, 0x03, 0x00, 0x00, 0xB4, 0x88, 0x13, 0x00, 0x00, 0x00, 0x01, 0xFF,
        0x80, 0x7F, 0, 0, 0, 0, 0, 0, 0, 0, 0, 0, 0] := by decide

/-! ### Packets and reset -/

/-- T-PKT-2 on a voice that sounds: flag clear, so `life`, `phase` and `latched` stay. -/
theorem test_generator_keeps_registers :
    after (exec (.pktGenerator 15 0 ⟨1, 3, 0x45, 10, 100⟩) (playing (voice 0 7 8 9) 0 0 0 0)) v15 =
      some ⟨⟨1, 3, 0x45, 10, 100⟩, 7, 8, 9⟩ := by decide

/-- T-PKT-12: the flag byte 0x02 is true; `latched` stays. -/
theorem test_generator_resets_timers :
    after (exec (.pktGenerator 15 0x02 ⟨0, 7, 0xFF, 0x19, 0xFF⟩) (playing (voice 0 7 8 9) 0 0 0 0)) v15 =
      some ⟨⟨0, 7, 0xFF, 0x19, 0xFF⟩, 0, 0, 9⟩ := by decide

/-- T-PKT-1: the values it stores. -/
theorem test_global_stores :
    after (exec (.pktGlobal ⟨200, ⟨10000, 1000, 180, 5000⟩,
        #v[0, 1, -1, -128, 127, 0, 0, 0, 0, 0, 0, 0, 0, 0, 0, 0]⟩) State.reset)
        (fun t => (t.g.masterVolume.toNat, t.g.env, [bendAt t.g 1, bendAt t.g 2, bendAt t.g 3, bendAt t.g 4])) =
      some (200, ⟨10000, 1000, 180, 5000⟩, [1, -1, -128, 127]) := by decide

theorem test_ignored_changes_nothing :
    after (exec .pktIgnored (playing (voice 0 7 8 9) 1 2 3 4)) v15 = some (voice 0 7 8 9) := by decide

/-- R134, R27: the latched level too is cleared. -/
theorem test_reset_clears :
    after (exec .reset (playing (voice 0 7 8 9) 1 2 3 4)) (fun t => (v15 t, t.g.env, t.g.masterVolume.toNat)) =
      some (Voice.zero, ⟨0, 0, 0, 0⟩, 0) := by decide

/-! ### The steps of TICK -/

/-- R78: note 58, and the index is masked (0xFF is note 127, T-PKT-12). -/
theorem test_note_to_frequency :
    after (exec (.noteToFrequency 15) (playing (voice 0 0 0 0) 0 0 0 0)) (·.work.noteFreq) = some 112640 ∧
    after (exec (.noteToFrequency 15) (playing ⟨⟨1, 0, 0xFF, 0, 0⟩, 0, 0, 0⟩ 0 0 0 0)) (·.work.noteFreq) =
      some 6061989 := by decide

/-- Section 2.3: bends of -128 and 127 on 112640. -/
theorem test_apply_pitch_bend :
    bendFrequency Cfg.reference 112640 (-128) = 98780 ∧ bendFrequency Cfg.reference 112640 127 = 126391 ∧
    after (exec (.applyPitchBend 15) (during (voice 0 0 0 0) { Work.idle with noteFreq := 63217 })) (·.work.freq) =
      some 63217 := by decide

/-- Section 2.3: wavelengths of notes 0 and 127, and R82's zero. -/
theorem test_frequency_to_wavelength :
    after (exec (.frequencyToWavelength 15) (during (voice 0 0 0 0) { Work.idle with freq := 3951 })) (·.work.wavelength) =
      some 2857 ∧
    after (exec (.frequencyToWavelength 15) (during (voice 0 0 0 0) { Work.idle with freq := 0 })) (·.work.wavelength) =
      some 0 := by decide

/-- T-PH-5, T-PH-6: normalisation at 100, none at 178. -/
theorem test_phase_normalise :
    after (exec (.phaseNormalise 15) (during (voice 0 0 150 0) { Work.idle with wavelength := 100 })) (v15 · |>.phase) =
      some 0 ∧
    after (exec (.phaseNormalise 15) (during (voice 0 0 4 0) { Work.idle with wavelength := 178 })) (v15 · |>.phase) =
      some 4 := by decide

/-- T-PH-1, T-PH-2. -/
theorem test_phase_advance :
    after (exec (.phaseAdvance 15) (during (voice 0 0 176 0) { Work.idle with wavelength := 178 })) (v15 · |>.phase) =
      some 177 ∧
    after (exec (.phaseAdvance 15) (during (voice 0 0 177 0) { Work.idle with wavelength := 178 })) (v15 · |>.phase) =
      some 0 := by decide

/-- T-PH-7. -/
theorem test_life_advance_wraps :
    after (exec (.lifeAdvance 15) (during (voice 0 0xFFFFFFFF 0 0) Work.idle)) (v15 · |>.life) = some 0 := by decide

/-- Section 2.5 at `w = 178`: square at 88 and 89. -/
theorem test_wave_square :
    [88, 89].map (fun p =>
      after (exec (.waveSquare 15) (during (voice 0 0 p 0) { Work.idle with wavelength := 178 })) (·.work.wave)) =
      [some 32767, some (-32767)] := by decide

/-- Section 2.5: triangle at 44, 45 and 177. -/
theorem test_wave_triangle :
    [44, 45, 177].map (fun p =>
      after (exec (.waveTriangle 15) (during (voice 1 0 p 0) { Work.idle with wavelength := 178 })) (·.work.wave)) =
      [some (-369), some 368, some (-32031)] := by decide

/-- Section 2.5: sawtooth with `w = 3`; the phase 5 is normalised to 0. -/
theorem test_wave_sawtooth :
    [1, 2, 5].map (fun p =>
      after (exec (.waveSawtooth 15) (during (voice 2 0 p 0) { Work.idle with wavelength := 3 })) (·.work.wave)) =
      [some (-10923), some 10922, some (-32767)] := by decide

/-- Section 2.5: sine with `w = 178` at 44 and 133. -/
theorem test_wave_sine :
    [44, 133].map (fun p =>
      after (exec (.waveSine 15) (during (voice 3 0 p 0) { Work.idle with wavelength := 178 })) (·.work.wave)) =
      [some 32757, some (-32757)] := by
  set_option maxRecDepth 2000 in decide

/-- Section 2.5: no waveform, and a zero wavelength. -/
theorem test_wave_none :
    after (exec (.waveNone 15) (during (voice 7 0 10 0) { Work.idle with wavelength := 178, wave := 5 })) (·.work.wave) =
      some 0 ∧
    wave Cfg.reference 3 0 0 = 0 := by decide

/-- T-ENV-7 at `t = 1`, 6 and 7. -/
theorem test_env_release :
    [1, 6, 7].map (fun t =>
      after (exec (.envRelease 15) (playing (released t 200) 0 0 0 7)) (·.work.level)) =
      [some 171, some 28, some 0] := by decide

/-- T-ENV-1 at `t = 3`, and T-ENV-9. -/
theorem test_env_attack :
    after (exec (.envAttack 15) (playing (voice 0 3 0 0) 4 4 128 0)) (·.work.level) = some 191 ∧
    after (exec (.envAttack 15) (playing (voice 0 4294967294 0 0) 4294967295 5 10 0)) (·.work.level) = some 254 := by
  decide

/-- T-ENV-1 at `t = 5`, and T-ENV-10: `A + D` is not wrapped. -/
theorem test_env_decay :
    after (exec (.envDecay 15) (playing (voice 0 5 0 0) 4 4 128 0)) (·.work.level) = some 224 ∧
    after (exec (.envDecay 15) (playing (voice 0 4294967295 0 0) 4294967295 4294967295 10 0)) (·.work.level) =
      some 255 := by decide

/-- T-ENV-2 at `t = 3`: no decay state. -/
theorem test_env_sustain :
    after (exec (.envSustain 15) (playing (voice 0 3 0 0) 3 0 200 0)) (·.work.level) = some 200 := by decide

/-- R105: T-ENV-1's latch, and none for a disabled voice (T-ENV-5). -/
theorem test_latch_update :
    after (exec (.latchUpdate 15) (during (voice 0 3 0 0) { Work.idle with level := 191 })) (v15 · |>.latched) = some 191 ∧
    after (exec (.latchUpdate 15) (during (released 1 128) { Work.idle with level := 96 })) (v15 · |>.latched) =
      some 128 := by decide

/-- Section 2.7: truncation toward zero, and the velocity mask. -/
theorem test_voice_scale :
    voiceSample Cfg.reference (-1) 254 127 = 0 ∧ voiceSample Cfg.reference (-32767) 1 127 = -128 ∧
    voiceSample Cfg.reference (-32767) 128 64 = -8288 ∧
    after (exec (.voiceScale 15) (during ⟨⟨1, 0, 0, 0, 0xFF⟩, 0, 0, 0⟩ { Work.idle with wave := 1000, level := 100 }))
      (·.work.sample) = some 392 := by decide

/-- P2, tick 5: sample 28783, then life 6, phase 6, latched 224. -/
theorem test_voice_step :
    after (exec (.voiceStep 15) (playing (voice 0 5 5 255) 4 4 128 4)) (fun t => (t.work.sample, v15 t)) =
      some (28783, voice 0 6 6 224) := by decide

/-- P3, ticks 5 and 6: the phase normalised before the sample, then advanced (voice 0: note 118, bend 127). -/
theorem test_voice_step_normalises :
    after (exec (.voiceStep 15)
        { playing ⟨⟨1, 2, 0x76, 0, 0x7F⟩, 6, 6, 255⟩ 0 0 255 0 with
          g := ⟨2, ⟨0, 0, 255, 0⟩, State.reset.g.pitchBend.set 0 0x7F⟩ })
      (fun t => (t.work.wavelength, t.work.sample, (v15 t).phase)) = some (2, -32767, 1) := by decide

/-- T-MIX-4: the samples of P3, tick 1, summed. -/
theorem test_mix_accumulate :
    after (exec .mixAccumulate
        { State.reset with
          g := ⟨2, ⟨0, 0, 255, 0⟩, State.reset.g.pitchBend⟩
          v := (State.reset.v.set 0 ⟨⟨1, 2, 0x3A, 0, 0x7F⟩, 1, 1, 255⟩).set 1 ⟨⟨1, 3, 0x46, 1, 0x40⟩, 1, 1, 255⟩ })
      (·.work.acc) = some (-30091) := by
  set_option maxRecDepth 2000 in decide

/-- T-MIX-4 and T-MIX-3: scaling a negative sum, and a volume of 0. -/
theorem test_mix_scale :
    mixOut Cfg.reference 2 (-30091) = -962912 ∧
    after (exec .mixScale { during Voice.zero { Work.idle with acc := 16447 } with g := State.reset.g }) (·.work.out) =
      some 0 := by decide

/-- P2, tick 10: the release starts from the latched level. -/
theorem test_tick_emits :
    after (exec .tick (playing (released 0 128) 4 4 128 4)) (·.emitted) = some [263152] := by
  set_option maxRecDepth 2000 in decide

/-- T-TICK-1: the first `TICK` after reset. -/
theorem test_tick_after_reset :
    after (exec .tick State.reset) (fun t => (t.emitted, v15 t)) = some ([0], { Voice.zero with life := 1, phase := 1 }) := by
  set_option maxRecDepth 2000 in decide

/-! ### Steps -/

/-- The word of T-PKT-2 placed by `withFetchWord` is run by the very next step. -/
theorem test_step_runs_word :
    after (step (State.reset.withFetchWord 72 0x640A45030100000F02)) v15 = some ⟨⟨1, 3, 0x45, 10, 100⟩, 0, 0, 0⟩ := by
  set_option maxRecDepth 4000 in decide

/-- T-MIX-1 with one voice of 16: `32767 * 255 * 16 * 16` in all from sixteen, a sixteenth of it from one. -/
theorem test_step_tick :
    after (step ({ playing ⟨⟨1, 0, 0, 0, 127⟩, 0, 0, 0⟩ 0 0 255 0 with
        g := ⟨255, ⟨0, 0, 255, 0⟩, State.reset.g.pitchBend⟩ }.withEvent .tick)) (·.emitted) = some [2139029760 / 16] := by
  set_option maxRecDepth 4000 in decide

theorem test_step_refuses_bad_configuration :
    step { State.reset with cfg := { Cfg.reference with nGenerators := 0 } } = .refused .badConfiguration := by rfl

/-! ### The host (P4) -/

/-- The host of P4. -/
def host : ControlPlane := { ControlPlane.initial Cfg.reference with globals := ⟨255, ⟨0, 0, 128, 0⟩, zeroRecord.pitchBend⟩ }

/-- P4 after its first two messages. -/
def host2 : ControlPlane :=
  { host with table := (host.table.set 0 ⟨1, 0, 0x30, 0, 0x7F⟩).set 1 ⟨1, 0, 0x3C, 1, 0x40⟩, cursor := 2 }

/-- P4, message 1. -/
theorem test_note_on :
    (midiMessage 16 host [0x90, 0x30, 0x7F]).2 = [[0x02, 0x00, 0x00, 0x01, 0x01, 0x00, 0x30, 0x00, 0x7F]] ∧
    (midiMessage 16 host [0x90, 0x30, 0x7F]).1.cursor = 1 := by decide

/-- P4, message 4: the scan goes on from the cursor, past the freed slot 0. -/
theorem test_note_on_scans_from_cursor :
    (midiMessage 16 { host2 with table := host2.table.set 0 ⟨0, 0, 0x30, 0, 0x7F⟩ } [0x90, 0x32, 0x50]).2 =
      [[0x02, 0x02, 0x00, 0x01, 0x01, 0x00, 0x32, 0x00, 0x50]] := by decide

/-- P4, messages 3, 5 and 12: a zero velocity does not overwrite; the channel must match; a velocity does overwrite. -/
theorem test_note_off :
    (midiMessage 16 host2 [0x80, 0x30, 0x00]).2 = [[0x02, 0x00, 0x00, 0x01, 0x00, 0x00, 0x30, 0x00, 0x7F]] ∧
    midiMessage 16 host2 [0x90, 0x3C, 0x00] = (host2, []) ∧
    (midiMessage 16 host2 [0x81, 0x3C, 0x22]).2 = [[0x02, 0x01, 0x00, 0x01, 0x00, 0x00, 0x3C, 0x01, 0x22]] := by decide

/-- P4, messages 6, 7 and 8. -/
theorem test_pitch_bend :
    rescaleBend 0x00 0x40 = 0 ∧ rescaleBend 0x7F 0x7F = 0x7F ∧ rescaleBend 0x00 0x00 = 0x80 := by decide

/-- P4, messages 9, 10 and 11. -/
theorem test_discarded_messages :
    ∀ msg ∈ [[0x99, 0x24, 0x7F], [0x90, 0x80, 0x7F], [0xB0, 0x07, 0x64]], midiMessage 16 host msg = (host, []) := by decide

/-! ### Witnesses: each obligation with hypotheses has a case that meets them, one for each clause -/

/-- T-PKT-1 and T-PKT-2. -/
def pkt1 : Packet :=
  [0x01, 0xC8, 0x10, 0x27, 0x00, 0x00, 0xE8, 0x03, 0x00, 0x00, 0xB4, 0x88, 0x13, 0x00, 0x00, 0x00, 0x01, 0xFF,
   0x80, 0x7F, 0, 0, 0, 0, 0, 0, 0, 0, 0, 0, 0]

def pkt2 : Packet := [0x02, 0x0F, 0x00, 0x00, 0x01, 0x03, 0x45, 0x0A, 0x64]

theorem witness_DecodeInvertsEncode :
    slotValid Cfg.reference 0 = true ∧ slotValid Cfg.reference 15 = true ∧
    Instr.wf Cfg.reference (.pktGenerator 15 0 ⟨1, 3, 0x45, 10, 100⟩) = true ∧
    encode (.pktGenerator 15 0 ⟨1, 3, 0x45, 10, 100⟩) = some pkt2 ∧
    Instr.wf Cfg.reference .pktIgnored = true ∧ encode .pktIgnored = some [] := by decide

theorem witness_AcceptedPacketStartsWithItsEncoding :
    classify Cfg.reference pkt1 =
      .ok (.pktGlobal ⟨200, ⟨10000, 1000, 180, 5000⟩, #v[0, 1, -1, -128, 127, 0, 0, 0, 0, 0, 0, 0, 0, 0, 0, 0]⟩) ∧
    classify Cfg.reference (pkt2 ++ [0xDE, 0xAD]) = .ok (.pktGenerator 15 0 ⟨1, 3, 0x45, 10, 100⟩) := by decide

theorem witness_PacketClassification :
    ([] : Packet).length = 0 ∧
    (byteAt (pkt1.take 1) 0 = 1 ∧ (pkt1.take 1).length = 1 ∧ byteAt (pkt1.take 30) 0 = 1 ∧ (pkt1.take 30).length = 30) ∧
    (byteAt pkt1 0 = 1 ∧ pkt1.length = 31) ∧
    (byteAt (pkt2.take 8) 0 = 2 ∧ (pkt2.take 8).length = 8) ∧
    (byteAt pkt2 0 = 2 ∧ pkt2.length = 9 ∧ (byteAt pkt2 1).toNat + 256 * (byteAt pkt2 2).toNat + 1 = Cfg.reference.nGenerators) ∧
    (byteAt (pkt2.set 1 16) 0 = 2 ∧ (pkt2.set 1 16).length = 9 ∧
      (byteAt (pkt2.set 1 16) 1).toNat + 256 * (byteAt (pkt2.set 1 16) 2).toNat = Cfg.reference.nGenerators) ∧
    (∀ b ∈ [0, 3, 255], byteAt [b] 0 ≠ (1 : Byte) ∧ byteAt [b] 0 ≠ (2 : Byte)) := by decide

theorem witness_InstrumentSelectorCodes : 4 ≤ (4 : Byte).toNat ∧ 4 ≤ (255 : Byte).toNat := by decide

theorem witness_GlobalPacketSetsEveryField :
    byteAt pkt1 0 = 1 ∧ 31 ≤ pkt1.length ∧ 32 ≤ State.reset.cfg.durW ∧ 8 ≤ State.reset.cfg.levelW ∧
    (byteAt pkt1 (15 + 4)).toNat = 127 ∧ (byteAt pkt1 (15 + 3)).toNat = 128 := by decide

/-- Slot 15 of a state that plays `v` is a slot that exists and holds `v`: the premise of every statement about one slot. -/
theorem witness_slot (v : Voice) (w : Work) (a d s r : Nat) :
    slotValid (playing v a d s r).cfg 15 = true ∧ (playing v a d s r).v[(15 : Slot).toNat]? = some v ∧
    slotValid (during v w).cfg 15 = true ∧ (during v w).v[(15 : Slot).toNat]? = some v := ⟨rfl, rfl, rfl, rfl⟩

theorem witness_GeneratorPacketWritesOneSlot :
    slotValid (playing (voice 0 7 8 9) 0 0 0 0).cfg 15 = true ∧
    (playing (voice 0 7 8 9) 0 0 0 0).v[(15 : Slot).toNat]? = some (voice 0 7 8 9) ∧
    byteAt pkt2 0 = 2 ∧ 9 ≤ pkt2.length ∧
    (15 : Slot).toNat = (byteAt pkt2 1).toNat + 256 * (byteAt pkt2 2).toNat := ⟨rfl, rfl, rfl, by decide, rfl⟩

theorem witness_IgnoredPacketsChangeNothing :
    ([] : Packet).length = 0 ∧
    (∀ b ∈ [0, 3, 255], byteAt [b] 0 ≠ (1 : Byte) ∧ byteAt [b] 0 ≠ (2 : Byte)) ∧
    (byteAt (pkt1.take 30) 0 = 1 ∧ (pkt1.take 30).length < 31) ∧
    (byteAt (pkt2.take 8) 0 = 2 ∧ (pkt2.take 8).length < 9) ∧
    (byteAt (pkt2.set 1 16) 0 = 2 ∧
      State.reset.cfg.nGenerators ≤ (byteAt (pkt2.set 1 16) 1).toNat + 256 * (byteAt (pkt2.set 1 16) 2).toNat) := by decide

/-- Beside `witness_slot`: the channel byte 0x19 is used as channel 9. -/
theorem witness_FrequencySteps : ((9 : Fin 16) : Fin 16).val = (0x19 : Byte).toNat % 16 := by decide

theorem witness_ZeroBendIsIdentity : Cfg.reference.bendLinearOffset = 2 ^ Cfg.reference.bendShift := by decide

/-- Beside `witness_slot`: a phase inside and a phase at the end of the period, for each selector. -/
theorem witness_WaveformSteps :
    ∀ k ∈ ([0, 1, 2, 3, 4, 255] : List Byte),
      (177 : Nat) = (if 178 ≤ (voice k 0 177 0).phase then 0 else (voice k 0 177 0).phase) ∧
      (0 : Nat) = (if 178 ≤ (voice k 0 178 0).phase then 0 else (voice k 0 178 0).phase) ∧
      (during (voice k 0 177 0) { Work.idle with wavelength := 178 }).work.wavelength = 178 ∧
      ((voice k 0 177 0).assign.instrument = 0 ∨ (voice k 0 177 0).assign.instrument = 1 ∨
        (voice k 0 177 0).assign.instrument = 2 ∨ (voice k 0 177 0).assign.instrument = 3 ∨
        4 ≤ (voice k 0 177 0).assign.instrument.toNat) := by decide

theorem witness_WaveformDispatchAndRange :
    (0 = 0 ∨ 0 < 0) ∧ (1 = 0 ∨ 0 < 1) ∧ 1 ≤ 178 ∧ 177 < 178 ∧ 4 ≤ (4 : Byte).toNat ∧ Cfg.reference.valid = true :=
  ⟨by decide, by decide, by decide, by decide, by decide, reference_valid⟩

/-- Beside `witness_slot`: T-ENV-1 at the edges of each state, and T-ENV-5. -/
theorem witness_EnvelopeRampSteps :
    (released 3 128).assign.enabled = 0 ∧
    ((voice 0 3 0 0).assign.enabled ≠ 0 ∧ (voice 0 3 0 0).life / Cfg.reference.lifeScale < 4) ∧
    (4 ≤ (voice 0 4 0 0).life / Cfg.reference.lifeScale ∧ (voice 0 4 0 0).life / Cfg.reference.lifeScale < 4 + 4) ∧
    (4 ≤ (voice 0 7 0 0).life / Cfg.reference.lifeScale ∧ (voice 0 7 0 0).life / Cfg.reference.lifeScale < 4 + 4) := by decide

theorem witness_SustainStep :
    (voice 0 8 0 0).assign.enabled ≠ 0 ∧ 4 + 4 ≤ (voice 0 8 0 0).life / Cfg.reference.lifeScale := by decide

theorem witness_EnvelopeLevelRange : (255 : Nat) ≤ Cfg.reference.envFull ∧ (128 : Nat) ≤ Cfg.reference.envFull := by decide

theorem witness_RampShapes :
    (3 : Nat) ≤ 3 ∧ (3 : Nat) ≤ 7 ∧ 1 ≤ 4 ∧ 3 < 4 ∧ (128 : Nat) ≤ Cfg.reference.envFull ∧ 4 ≤ 4 ∧ 7 < 4 + 4 ∧ 4 ≤ 5 := by
  decide

theorem witness_LatchUpdateStep : (voice 0 3 0 0).assign.enabled ≠ 0 ∧ (released 1 128).assign.enabled = 0 := by decide

/-- P2, the note-off after tick 9. -/
theorem witness_EnvelopeContinuity :
    ∃ s1 s2, slotValid (playing (voice 0 9 9 128) 4 4 128 4).cfg 15 = true ∧
      (playing (voice 0 9 9 128) 4 4 128 4).v[(15 : Slot).toNat]? = some (voice 0 9 9 128) ∧
      (voice 0 9 9 128).assign.enabled ≠ 0 ∧ (⟨0, 0, 0x3A, 0, 0x7F⟩ : Assignment).enabled = 0 ∧ (1 : Byte) ≠ 0 ∧
      exec .tick (playing (voice 0 9 9 128) 4 4 128 4) = .next s1 ∧
      exec (.pktGenerator 15 1 ⟨0, 0, 0x3A, 0, 0x7F⟩) s1 = .next s2 :=
  ⟨_, _, rfl, rfl, by decide, rfl, by decide, rfl, rfl⟩

theorem witness_VoiceSampleSymmetricBounded :
    (255 : Nat) ≤ Cfg.reference.envFull ∧ (127 : Nat) ≤ Cfg.reference.velocityMax ∧ 1 ≤ Cfg.reference.envFull ∧
    1 ≤ Cfg.reference.velocityMax := by decide

/-- P2, tick 5: the values the premises of the result name. -/
theorem witness_VoiceStepResult :
    voiceWavelength Cfg.reference (playing (voice 0 5 5 255) 4 4 128 4).g (voice 0 5 5 255).assign = 100 ∧
    (5 : Nat) = (if 100 ≤ (voice 0 5 5 255).phase then 0 else (voice 0 5 5 255).phase) ∧
    wave Cfg.reference (voice 0 5 5 255).assign.instrument 5 100 = 32767 ∧
    envLevel Cfg.reference (isEnabled (voice 0 5 5 255).assign) ((voice 0 5 5 255).life / Cfg.reference.lifeScale) 255
      (playing (voice 0 5 5 255) 4 4 128 4).g.env = 224 := by decide

/-- The premises about the registers, for a voice in the middle of its attack. -/
theorem playing_inRange :
    (∀ v ∈ (playing (voice 0 2 2 63) 4 4 128 4).v, v.InRange Cfg.reference) ∧
    (playing (voice 0 2 2 63) 4 4 128 4).g.env.InRange Cfg.reference := by
  refine ⟨?_, by decide, by decide, by decide, by decide⟩
  have : ∀ v ∈ (playing (voice 0 2 2 63) 4 4 128 4).v, v = Voice.zero ∨ v = voice 0 2 2 63 := by decide
  intro v hv
  rcases this v hv with rfl | rfl <;> exact ⟨by decide, by decide, by decide⟩

theorem initial_conforms : (ControlPlane.initial Cfg.reference).Conforms 16 := by
  refine ⟨rfl, by decide, fun a ha => ?_⟩
  obtain rfl := List.eq_of_mem_replicate ha
  exact ⟨by decide, by decide, by decide, by decide, by decide⟩

theorem playing_inv (es : List Event) : ({ playing (voice 0 2 2 63) 4 4 128 4 with inputs := es }).Inv :=
  ⟨reference_valid, rfl, playing_inRange.1, playing_inRange.2, rfl, initial_conforms, fun _ h => by cases h⟩

theorem witness_MixAccumulateSumsVoiceSteps :
    (playing (voice 0 2 2 63) 4 4 128 4).v.length = Cfg.reference.nGenerators ∧ Cfg.reference.nGenerators ≤ 65536 ∧
    slotValid Cfg.reference 0 = true ∧ slotValid Cfg.reference 15 = true ∧ Cfg.reference.valid = true ∧
    (∀ v ∈ (playing (voice 0 2 2 63) 4 4 128 4).v, v.InRange Cfg.reference) ∧
    (playing (voice 0 2 2 63) 4 4 128 4).g.env.InRange Cfg.reference :=
  ⟨rfl, by decide, rfl, rfl, reference_valid, playing_inRange⟩

theorem witness_TickResult :
    (playing (voice 0 2 2 63) 4 4 128 4).v.length = Cfg.reference.nGenerators ∧ Cfg.reference.nGenerators ≤ 65536 ∧
    slotValid Cfg.reference 15 = true := ⟨rfl, by decide, rfl⟩

theorem witness_MixerNeverOverflows :
    ∃ u t, (playing (voice 0 2 2 63) 4 4 128 4).Inv ∧ exec .mixAccumulate (playing (voice 0 2 2 63) 4 4 128 4) = .next u ∧
      exec .tick (playing (voice 0 2 2 63) 4 4 128 4) = .next t := ⟨_, _, playing_inv [], rfl, rfl⟩

theorem witness_VoiceOrderIrrelevant :
    (playing (voice 0 2 2 63) 4 4 128 4).v.length = Cfg.reference.nGenerators ∧ Cfg.reference.nGenerators ≤ 65536 ∧
    (List.range Cfg.reference.nGenerators).reverse.Perm (List.range Cfg.reference.nGenerators) :=
  ⟨rfl, by decide, List.reverse_perm _⟩

/-- Two states that differ in slot 0 and agree in slot 15. -/
theorem witness_VoiceIndependence :
    ∃ s s' t t' : State, s.cfg = s'.cfg ∧ s.g = s'.g ∧ s.v[15]? = s'.v[15]? ∧ s.v[0]? ≠ s'.v[0]? ∧
      exec .tick s = .next t ∧ exec .tick s' = .next t' :=
  ⟨playing (voice 0 2 2 63) 4 4 128 4,
    { playing (voice 0 2 2 63) 4 4 128 4 with v := (playing (voice 0 2 2 63) 4 4 128 4).v.set 0 (voice 1 0 0 0) },
    _, _, rfl, rfl, rfl, by decide, rfl, rfl⟩

theorem witness_ExactlyOncePerTick :
    Cfg.reference.valid = true ∧
    (∀ v ∈ (playing (voice 0 4294967295 0 0) 0 0 0 0).v, v.life < 2 ^ Cfg.reference.lifeW) ∧
    (({ playing (voice 0 4294967295 0 0) 0 0 0 0 with inputs := [.tick, .tick, .reset] }).inputs =
      List.replicate 2 .tick ++ [.reset]) :=
  ⟨reference_valid, by decide, rfl⟩

theorem witness_PhaseInsidePeriodAfterTick :
    ∃ t w, exec .tick (playing (voice 0 5 99 0) 0 0 0 0) = .next t ∧
      (playing (voice 0 5 99 0) 0 0 0 0).v[15]? = some (voice 0 5 99 0) ∧ t.v[15]? = some w ∧
      1 ≤ voiceWavelength Cfg.reference (playing (voice 0 5 99 0) 0 0 0 0).g (voice 0 5 99 0).assign :=
  ⟨_, _, rfl, rfl, rfl, by decide⟩

theorem witness_PhaseRunsThroughItsPeriod :
    Cfg.reference.valid = true ∧
    ({ playing (voice 0 5 0 0) 0 0 0 0 with inputs := [.tick, .tick] }).inputs = List.replicate 2 .tick ++ [] ∧
    (playing (voice 0 5 0 0) 0 0 0 0).v[15]? = some (voice 0 5 0 0) ∧ (voice 0 5 0 0).phase = 0 ∧
    100 = voiceWavelength Cfg.reference (playing (voice 0 5 0 0) 0 0 0 0).g (voice 0 5 0 0).assign :=
  ⟨reference_valid, rfl, rfl, rfl, by decide⟩

/-- The three clauses: a next state for each operation, and phases 98 and 99 of the period 100. -/
theorem witness_PhaseContinuity :
    (∃ t, exec (.pktGlobal zeroRecord) (playing (voice 0 5 98 0) 0 0 0 0) = .next t) ∧
    (∃ t, exec (.pktGenerator 15 0 zeroAssignment) (playing (voice 0 5 98 0) 0 0 0 0) = .next t) ∧
    (∃ t w, exec .tick (playing (voice 0 5 98 0) 0 0 0 0) = .next t ∧ t.v[15]? = some w) ∧
    voiceWavelength Cfg.reference (playing (voice 0 5 98 0) 0 0 0 0).g (voice 0 5 98 0).assign = 100 ∧
    98 + Cfg.reference.lifeScale < 100 ∧ 99 < 100 ∧ 100 ≤ 99 + Cfg.reference.lifeScale ∧
    (∃ t w, exec .tick (playing (voice 0 5 99 0) 0 0 0 0) = .next t ∧ t.v[15]? = some w ∧ w.phase = 0) ∧
    (∃ t w, exec (.pktGenerator 15 1 zeroAssignment) (playing (voice 0 5 99 0) 0 0 0 0) = .next t ∧ t.v[15]? = some w ∧
      w.phase = 0) :=
  ⟨⟨_, rfl⟩, ⟨_, rfl⟩, ⟨_, _, rfl, rfl⟩, by decide, by decide, by decide, by decide, ⟨_, _, rfl, rfl, by decide⟩,
    ⟨_, _, rfl, rfl, by decide⟩⟩

/-- Beside `witness_slot`: a voice whose byte selects another waveform, and one in each other envelope state. -/
theorem witness_UnselectedStepsDoNothing :
    ((voice 4 0 0 0).assign.instrument ≠ 0 ∧ (voice 4 0 0 0).assign.instrument ≠ 1 ∧ (voice 4 0 0 0).assign.instrument ≠ 2 ∧
      (voice 4 0 0 0).assign.instrument ≠ 3 ∧ (voice 3 0 0 0).assign.instrument.toNat < 4) ∧
    (voice 0 4 0 0).assign.enabled ≠ 0 ∧ 4 ≤ (voice 0 4 0 0).life / Cfg.reference.lifeScale ∧
    (voice 0 3 0 0).life / Cfg.reference.lifeScale < 4 ∧ 4 + 4 ≤ (voice 0 8 0 0).life / Cfg.reference.lifeScale ∧
    (voice 0 7 0 0).life / Cfg.reference.lifeScale < 4 + 4 ∧ (released 0 0).assign.enabled = 0 := by decide

theorem witness_NoSuchSlotDoesNothing : Instr.wf State.reset.cfg (.voiceStep 16) = false := by decide

theorem witness_OnlyBadConfigurationStopsAStep :
    State.reset.cfg.valid = true ∧ ¬ ({ State.reset with cfg := { Cfg.reference with nGenerators := 0 } }).cfg.MeetsR8 :=
  ⟨reference_valid, fun h => absurd h.1.1 (by decide)⟩

theorem witness_StepRunsTheNextEvent :
    State.reset.cfg.valid = true ∧ (State.reset.withEvent .reset).inputs = .reset :: [] ∧
    (State.reset.withEvent .tick).inputs = .tick :: [] ∧ (State.reset.withEvent (.cmd pkt2)).inputs = .cmd pkt2 :: [] ∧
    (({ State.reset with link := [pkt2] }).withEvent .deliver).inputs = .deliver :: [] ∧
    (({ State.reset with link := [pkt2] }).withEvent .deliver).link = pkt2 :: [] ∧
    State.reset.inputs = [] ∧ (State.reset.withEvent .deliver).inputs = .deliver :: [] ∧
    (State.reset.withEvent .deliver).link = [] :=
  ⟨reference_valid, rfl, rfl, rfl, rfl, rfl, rfl, rfl, rfl⟩

theorem witness_StepRunsTheFetchedWord : State.reset.cfg = Cfg.reference := rfl

/-- Each clause: `G` written by a packet, an assignment by a packet, life and phase by a `TICK` and by a packet, latched by a
`TICK`. -/
theorem witness_WriteMatrix :
    (∃ t, selectedByEvent (.pktGlobal ⟨200, ⟨1, 2, 3, 4⟩, zeroRecord.pitchBend⟩) = true ∧
      exec (.pktGlobal ⟨200, ⟨1, 2, 3, 4⟩, zeroRecord.pitchBend⟩) (playing (voice 0 2 2 63) 4 4 128 4) = .next t ∧
      t.g ≠ (playing (voice 0 2 2 63) 4 4 128 4).g) ∧
    (∃ t w, exec (.pktGenerator 15 1 zeroAssignment) (playing (voice 0 2 2 63) 4 4 128 4) = .next t ∧ t.v[15]? = some w ∧
      w.assign ≠ (voice 0 2 2 63).assign ∧ w.life ≠ (voice 0 2 2 63).life) ∧
    (∃ t w, exec .tick (playing (voice 0 2 2 63) 4 4 128 4) = .next t ∧ t.v[15]? = some w ∧
      w.phase ≠ (voice 0 2 2 63).phase ∧ w.latched ≠ (voice 0 2 2 63).latched) :=
  ⟨⟨_, rfl, rfl, by decide⟩, ⟨_, _, rfl, rfl, by decide, by decide⟩, ⟨_, _, rfl, rfl, by decide, by decide⟩⟩

theorem witness_StepKeepsInvariant :
    ∃ s t : State, s.Inv ∧ s.inputs = [.tick] ∧ step s = .next t :=
  ⟨{ playing (voice 0 2 2 63) 4 4 128 4 with inputs := [.tick] }, _, playing_inv _, rfl, by
    rw [step_cons (s := { playing (voice 0 2 2 63) 4 4 128 4 with inputs := [.tick] }) reference_valid rfl]; exact exec_tick _⟩

/-- A tick on a quiet block, then a packet that enables nothing; and a volume of 0. -/
theorem witness_SilenceUntilAVoiceIsEnabled :
    (∃ t, (State.reset.withEvent .tick).Quiet ∧ (takeNext (State.reset.withEvent .tick)).1 = some .tick ∧
      step (State.reset.withEvent .tick) = .next t ∧ (State.reset.withEvent .tick).g.masterVolume = 0) ∧
    (takeNext (State.reset.withEvent (.cmd (pkt2.set 4 0)))).1 = some (.pktGenerator 15 0 ⟨0, 3, 0x45, 10, 100⟩) ∧
    (⟨0, 3, 0x45, 10, 100⟩ : Assignment).enabled = 0 :=
  ⟨⟨_, fun v hv => by obtain rfl := List.eq_of_mem_replicate hv; exact ⟨rfl, rfl⟩, rfl, by
    rw [step_cons (s := State.reset.withEvent .tick) reference_valid rfl]; exact exec_tick _, rfl⟩, rfl, rfl⟩

theorem witness_HostEventsActThroughTheLink :
    State.reset.cfg.valid = true ∧ (State.reset.withEvent (.midi [0x90, 0x30, 0x7F])).inputs = [.midi [0x90, 0x30, 0x7F]] ∧
    (State.reset.withEvent (.hostStart zeroRecord false)).inputs = [.hostStart zeroRecord false] ∧
    (State.reset.withEvent (.hostStart zeroRecord true)).inputs = [.hostStart zeroRecord true] ∧
    (State.reset.withEvent (.hostSet 1 zeroRecord.env)).inputs = [.hostSet 1 zeroRecord.env] :=
  ⟨reference_valid, rfl, rfl, rfl, rfl⟩

/-- The test of a slot against a note and a channel, as NoteOffRule writes it. -/
abbrev holds (h : ControlPlane) (k : Nat) (note ch : Byte) : Prop :=
  (h.entry k).enabled ≠ 0 ∧ (h.entry k).noteIndex = note ∧ (h.entry k).channelIndex = ch

/-- P4, message 5 (no match), message 3 (slot 0) and message 12 (slot 1, past slot 0), with boundary values of the data bytes. -/
theorem witness_NoteOffRule :
    (0x80 : Byte).extractLsb' 4 4 = (0x8 : BitVec 4) ∧ (0x80 : Byte).extractLsb' 0 4 ≠ (9 : BitVec 4) ∧
    (0x7F : Byte).toNat < 128 ∧ (0 : Byte).toNat < 128 ∧
    ((0x80 : Byte).extractLsb' 0 4).setWidth 8 = (0 : Byte) ∧ ((0x81 : Byte).extractLsb' 0 4).setWidth 8 = (1 : Byte) ∧
    (∀ k < 16, ¬ holds host2 k 0x3C 0) ∧
    host2.table[0]? = some ⟨1, 0, 0x30, 0, 0x7F⟩ ∧ (∀ k < 0, ¬ holds host2 k 0x30 0) ∧
    host2.table[1]? = some ⟨1, 0, 0x3C, 1, 0x40⟩ ∧ (∀ k < 1, ¬ holds host2 k 0x3C 1) := by decide

/-- P4, messages 1 and 5, and a full table. -/
theorem witness_NoteOnRule :
    (0x9F : Byte).extractLsb' 4 4 = (0x9 : BitVec 4) ∧ (0x9F : Byte).extractLsb' 0 4 ≠ (9 : BitVec 4) ∧
    (0x7F : Byte).toNat < 128 ∧ (0 : Byte) = 0 ∧ (1 : Byte) ≠ 0 ∧
    findVacant 16 { host with table := List.replicate 16 ⟨1, 0, 0, 0, 1⟩ } = none ∧
    findVacant 16 host2 = some 2 ∧ findVacant 16 { host with cursor := 15 } = some 15 := by decide

theorem witness_PitchBendRule :
    (0xE0 : Byte).extractLsb' 4 4 = (0xE : BitVec 4) ∧ (0xE0 : Byte).extractLsb' 0 4 ≠ (9 : BitVec 4) ∧
    (0x7F : Byte).toNat < 128 ∧ (0x40 : Byte) = 0x40 ∧ (0 : Byte) = 0 := by decide

theorem witness_DiscardedMessages :
    ([] : Packet) = [] ∧ (∃ b ∈ ([0x90, 0x80, 0x7F] : Packet).tail, 128 ≤ b.toNat) ∧
    ((byteAt [0xB0, 0x07, 0x64] 0).extractLsb' 4 4 ≠ (0x8 : BitVec 4) ∧
      (byteAt [0xB0, 0x07, 0x64] 0).extractLsb' 4 4 ≠ (0x9 : BitVec 4) ∧
      (byteAt [0xB0, 0x07, 0x64] 0).extractLsb' 4 4 ≠ (0xE : BitVec 4)) ∧
    ([0x90, 0x30] : Packet).length ≠ 3 ∧ (byteAt [0x99, 0x24, 0x7F] 0).extractLsb' 0 4 = (9 : BitVec 4) := by decide

/-- The clauses about messages that send nothing: P4's messages 9 to 11, a short one, message 5 as a note-off and as a note-on of
velocity 0, and a note-on to a full table. -/
theorem witness_OnePacketPerStateChange :
    (∃ b ∈ ([0x90, 0x80, 0x7F] : Packet).tail, 128 ≤ b.toNat) ∧ ([0x90, 0x30] : Packet).length ≠ 3 ∧
    (byteAt [0x99, 0x24, 0x7F] 0).extractLsb' 0 4 = (9 : BitVec 4) ∧
    (byteAt [0x80, 0x3C, 0x00] 0).extractLsb' 4 4 = (0x8 : BitVec 4) ∧
    ((byteAt [0x90, 0x3C, 0x00] 0).extractLsb' 4 4 = (0x9 : BitVec 4) ∧ byteAt [0x90, 0x3C, 0x00] 2 = 0) ∧
    (∀ k < 16, ¬ holds host2 k (byteAt [0x90, 0x3C, 0x00] 1) (((byteAt [0x90, 0x3C, 0x00] 0).extractLsb' 0 4).setWidth 8)) ∧
    byteAt [0x90, 0x3C, 0x40] 2 ≠ 0 ∧
    (∀ k < 16, (({ host with table := List.replicate 16 ⟨1, 0, 0, 0, 1⟩ }).entry ((host.cursor + k) % 16)).enabled ≠ 0) := by
  decide

/-- A host whose cursor is at the last slot, with slots 0 and 1 enabled; and one whose table is full. -/
theorem witness_FindVacantScansFromTheCursor :
    ({ host2 with cursor := 15 }).cursor < 16 ∧ host2.table.length = 16 ∧ host2.cursor < 16 ∧
    (∀ a ∈ ({ host with table := List.replicate 16 ⟨1, 0, 0, 0, 1⟩ }).table, a.enabled ≠ 0) ∧ (1 : Byte) ≠ 0 ∧
    findVacant 16 { host2 with cursor := 15 } = some 15 ∧
    findVacant 16 { host with table := List.replicate 16 ⟨1, 0, 0, 0, 1⟩ } = none := by decide

/-- The clauses: a free slot, a slot freed again by hand, and a full table. -/
theorem witness_AllocationProperties :
    host2.cursor < 16 ∧ host2.table.length = 16 ∧ (0x50 : Byte) ≠ 0 ∧ (∃ a ∈ host2.table, a.enabled = 0) ∧
    (noteOn 16 host2 0 0x32 0x50).1.cursor = 3 ∧
    findVacant 16 { host2 with table := (List.replicate 16 ⟨1, 0, 0, 0, 1⟩).set 2 zeroAssignment, cursor := 3 } = some 2 ∧
    (∀ a ∈ ({ host with table := List.replicate 16 ⟨1, 0, 0, 0, 1⟩ }).table, a.enabled ≠ 0) := by decide

/-- Agreement after reset, and with P4's first packet in flight. -/
def inFlight : State :=
  { State.reset with
    control := { State.reset.control with table := State.reset.control.table.set 0 ⟨1, 0, 0x30, 0, 0x7F⟩, cursor := 1 }
    link := [[0x02, 0x00, 0x00, 0x01, 0x01, 0x00, 0x30, 0x00, 0x7F]] }

theorem witness_PlanesStayInAgreement :
    inFlight.cfg.valid = true ∧ inFlight.v.length = inFlight.cfg.nGenerators ∧
    inFlight.control.table.length = inFlight.cfg.nGenerators ∧ inFlight.control.cursor < inFlight.cfg.nGenerators ∧
    (∀ e ∈ ([.tick, .deliver, .midi [0x91, 0x3C, 0x40], .hostSet 1 zeroRecord.env, .hostStart zeroRecord true] : List Event),
      (inFlight.withEvent e).inputs = [e] ∧ (inFlight.withEvent e).Agrees ∧ ∃ t, step (inFlight.withEvent e) = .next t) := by
  have ha : inFlight.Agrees := ⟨by decide, by decide⟩
  refine ⟨reference_valid, rfl, rfl, by decide, ?_⟩
  intro e he
  refine ⟨rfl, ha, ?_⟩
  rw [step_cons (s := inFlight.withEvent e) reference_valid rfl]
  simp only [List.mem_cons, List.not_mem_nil, or_false] at he
  rcases he with rfl | rfl | rfl | rfl | rfl <;> exact ⟨_, rfl⟩

/-- P4, message 2, which brings a new pair to a host with one pair and one packet in flight. -/
theorem witness_HostStaysConforming :
    inFlight.control.Conforms inFlight.cfg.nGenerators ∧ (∀ p ∈ inFlight.link, ConformingPacket inFlight.cfg.nGenerators p) ∧
    inFlight.control.PairsUnique inFlight.cfg.nGenerators ∧
    (∀ e ∈ (inFlight.withEvent (.midi [0x91, 0x3C, 0x40])).inputs.head?,
      e.BringsNewPair inFlight.cfg.nGenerators inFlight.control) ∧
    ∃ t, step (inFlight.withEvent (.midi [0x91, 0x3C, 0x40])) = .next t := by
  have hr : RecordConforms ⟨1, 0, 0x30, 0, 0x7F⟩ := ⟨by decide, by decide, by decide, by decide, by decide⟩
  refine ⟨⟨rfl, by decide, fun a ha => ?_⟩, fun p hp => ?_, ?_, fun e he => ?_, ?_⟩
  · have : ∀ a ∈ inFlight.control.table, a = zeroAssignment ∨ a = ⟨1, 0, 0x30, 0, 0x7F⟩ := by decide
    rcases this a ha with rfl | rfl
    · exact ⟨by decide, by decide, by decide, by decide, by decide⟩
    · exact hr
  · exact .inr ⟨0, _, by decide, hr, List.mem_singleton.1 hp⟩
  · have : ∀ j < 16, ∀ k < 16, isEnabled (inFlight.control.entry j) = true → isEnabled (inFlight.control.entry k) = true →
        j = k := by decide
    exact fun j k hj hk h1 h2 _ _ => this j hj k hk h1 h2
  · cases he
    intro msg ch note vel hm hp _
    cases hm
    cases (show MidiMsg.noteOn 1 0x3C 0x40 = .noteOn ch note vel from hp)
    decide
  · rw [step_cons (s := inFlight.withEvent (.midi [0x91, 0x3C, 0x40])) reference_valid rfl]
    exact ⟨_, rfl⟩

/-- R56's precondition matters: with the pair already enabled, a second note-on takes a second slot (R60's gap, log 11). -/
theorem test_duplicate_note_on_takes_second_slot :
    (midiMessage 16 host2 [0x90, 0x30, 0x7F]).2 = [[0x02, 0x02, 0x00, 0x01, 0x01, 0x00, 0x30, 0x00, 0x7F]] := by decide

/-- Two states with the same host and different blocks. -/
theorem witness_NothingFlowsBack :
    (∃ t, exec .tick (playing (voice 0 2 2 63) 4 4 128 4) = .next t) ∧
    State.reset.cfg = (playing (voice 0 2 2 63) 4 4 128 4).cfg ∧
    State.reset.control = (playing (voice 0 2 2 63) 4 4 128 4).control ∧
    State.reset.link = (playing (voice 0 2 2 63) 4 4 128 4).link ∧
    State.reset.v ≠ (playing (voice 0 2 2 63) 4 4 128 4).v := ⟨⟨_, rfl⟩, rfl, rfl, rfl, by decide⟩

end Sys2Proof.Tests
end

section
/-! O45, the host's half: every host procedure keeps the host's table, cursor and records in their ranges
(spec/40_host_control_plane.md R55, R68). -/

namespace Sys2Proof.Machine

open Sys2Proof

variable {n : Nat} {h : ControlPlane}

/-! ### Records -/

theorem zeroAssignment_conforms : RecordConforms zeroAssignment := by
  simp [RecordConforms, zeroAssignment]

/-- The data bytes of an accepted message have seven bits (R57). -/
theorem midiData_le {msg : Packet} (hok : midiBytesOk msg = true) (k : Nat) : (byteAt msg (k + 1)).toNat ≤ 127 := by
  cases msg with
  | nil => cases hok
  | cons b data =>
    simp only [byteAt, List.getD_cons_succ]
    rcases Nat.lt_or_ge k data.length with hk | hk
    · have hmsb : (data[k]).msb = false := by
        simpa using List.all_eq_true.1 hok data[k] (List.getElem_mem hk)
      rw [BitVec.msb_eq_false_iff_two_mul_lt] at hmsb
      rw [List.getD_eq_getElem _ _ hk]
      omega
    · rw [List.getD_eq_default _ _ hk]
      decide

/-- A channel other than 9, as the byte of a record (R58, R68). -/
theorem channelByte_conforms {ch : BitVec 4} (hch : ch ≠ 9) :
    (ch.setWidth 8).toNat ≤ 15 ∧ (ch.setWidth 8).toNat ≠ 9 := by
  rw [BitVec.toNat_setWidth_of_le (by decide)]
  exact ⟨by omega, fun h9 => hch (BitVec.eq_of_toNat_eq h9)⟩

theorem instrumentByte_le (h : ControlPlane) : h.instrumentByte.toNat ≤ 3 := by
  have := h.curInstrument.isLt
  simp only [ControlPlane.instrumentByte, BitVec.toNat_ofNat]
  omega

/-! ### The table -/

theorem entry_conforms (hc : h.Conforms n) {j : Nat} (hj : j < n) : RecordConforms (h.entry j) := by
  have ⟨_, _, hrec⟩ := hc
  exact hrec _ (entry_mem hc hj)

/-- Writing a record in its ranges keeps the table in its ranges. -/
theorem setEntry_conforms (hc : h.Conforms n) (j : Nat) {a : Assignment} (ha : RecordConforms a) :
    (h.setEntry j a).Conforms n := by
  obtain ⟨hlen, hcur, hrec⟩ := hc
  refine ⟨by simpa [ControlPlane.setEntry] using hlen, hcur, fun b hb => ?_⟩
  rcases List.mem_or_eq_of_mem_set hb with hb | rfl
  · exact hrec b hb
  · exact ha

/-- So does moving the cursor to another slot. -/
theorem setCursor_conforms (hc : h.Conforms n) {k : Nat} (hk : k < n) : ({ h with cursor := k }).Conforms n := by
  obtain ⟨hlen, -, hrec⟩ := hc
  exact ⟨hlen, hk, hrec⟩

/-! ### The host's procedures -/

theorem noteOff_conforms (hc : h.Conforms n) (ch : BitVec 4) (note : Byte) {vel : Byte} (hv : vel.toNat ≤ 127) :
    (noteOff n h ch note vel).1.Conforms n := by
  unfold noteOff
  split
  · exact hc
  · next j hj =>
    obtain ⟨-, hinstr, hnote, hchan, hvel⟩ := entry_conforms hc (findMatching_lt hj)
    refine setEntry_conforms hc j ⟨by simp, hinstr, hnote, hchan, ?_⟩
    dsimp only
    split
    · exact hv
    · exact hvel

theorem allocate_conforms (hc : h.Conforms n) {ch : BitVec 4} (hch : ch ≠ 9) {note vel : Byte}
    (hn : note.toNat ≤ 127) (hv : vel.toNat ≤ 127) : (allocate n h ch note vel).1.Conforms n := by
  unfold allocate
  split
  · exact hc
  · next j hj =>
    have hpos : 0 < n := Nat.zero_lt_of_lt (findVacant_lt hj)
    have hrec : RecordConforms ⟨1, h.instrumentByte, note, ch.setWidth 8, vel⟩ :=
      ⟨by simp, instrumentByte_le h, hn, channelByte_conforms hch, hv⟩
    exact setCursor_conforms (setEntry_conforms hc j hrec) (Nat.mod_lt _ hpos)

theorem noteOn_conforms (hc : h.Conforms n) {ch : BitVec 4} (hch : ch ≠ 9) {note vel : Byte}
    (hn : note.toNat ≤ 127) (hv : vel.toNat ≤ 127) : (noteOn n h ch note vel).1.Conforms n := by
  unfold noteOn
  split
  · exact noteOff_conforms hc ch note hv
  · exact allocate_conforms hc hch hn hv

/-- A message of any bytes: what it brings into the table are seven-bit data and a channel other than 9 (R57, R58). -/
theorem midiMessage_conforms (hc : h.Conforms n) (msg : Packet) : (midiMessage n h msg).1.Conforms n := by
  unfold midiMessage
  rcases parseMidi_cases msg with (hm | hm) | ⟨hok, hch, ⟨-, hm⟩ | ⟨-, hm⟩ | ⟨-, hm⟩⟩ <;> rw [hm]
  · exact hc
  · exact hc
  · exact noteOff_conforms hc _ _ (midiData_le hok 1)
  · exact noteOn_conforms hc hch (midiData_le hok 0) (midiData_le hok 1)
  · exact hc

theorem hostStart_conforms (hn : 1 ≤ n) (h : ControlPlane) (r : GlobalRecord) (sync : Bool) :
    (hostStart n h r sync).1.Conforms n := by
  refine ⟨by simp [hostStart], hn, fun a ha => ?_⟩
  obtain rfl := List.eq_of_mem_replicate ha
  exact zeroAssignment_conforms

theorem hostSet_conforms (hc : h.Conforms n) (vol : Byte) (env : EnvRecord) : (hostSet h vol env).1.Conforms n := hc

end Sys2Proof.Machine
end

section
/-! O45, the block's half: what an operation writes lies in its register (spec/10_state.md R12 to R14, R17; R112). -/

namespace Sys2Proof.Machine

open Sys2Proof

variable {c : Cfg} {g : GlobalState} {v : Voice}

theorem zeroVoice_inRange (c : Cfg) : Voice.zero.InRange c :=
  ⟨Nat.two_pow_pos _, Nat.two_pow_pos _, Nat.zero_le _⟩

theorem zeroEnvelope_inRange (c : Cfg) : GlobalState.zero.env.InRange c :=
  ⟨Nat.two_pow_pos _, Nat.two_pow_pos _, Nat.zero_le _, Nat.two_pow_pos _⟩

/-- A received record fits its registers, whatever their widths; full scale is the largest level (R8 item 6). -/
theorem storeGlobal_inRange (hc : c.valid = true) (r : GlobalRecord) : (storeGlobal c r).env.InRange c := by
  obtain ⟨-, -, -, hfull, -⟩ := valid_sizes hc
  have hsustain := truncU_lt c.levelW r.env.sustain.toNat
  exact ⟨truncU_lt _ _, truncU_lt _ _, by simp only [storeGlobal]; omega, truncU_lt _ _⟩

theorem assignVoice_inRange (hv : v.InRange c) (rf : Byte) (a : Assignment) : (assignVoice rf a v).InRange c := by
  obtain ⟨hlife, hphase, hlatched⟩ := hv
  unfold assignVoice
  split
  · exact ⟨Nat.two_pow_pos _, Nat.two_pow_pos _, hlatched⟩
  · exact ⟨hlife, hphase, hlatched⟩

/-- A `TICK` keeps a voice in range: the life is truncated, the phase ends inside its wavelength, which fits the register, and the
latched level is a level. -/
theorem afterTick_inRange (hc : c.valid = true) (he : g.env.InRange c) (hv : v.InRange c) :
    (afterTick c g v).InRange c := by
  obtain ⟨-, -, hsustain, -⟩ := he
  obtain ⟨-, -, hlatched⟩ := hv
  obtain ⟨hpos, hfits⟩ := valid_wavelength hc g v.assign
  refine ⟨advancedLife_lt _, ?_, ?_⟩
  · exact (advancedPhase_lt hpos).trans (by omega)
  · simp only [afterTick]
    split
    · exact envLevel_le hlatched hsustain
    · exact hlatched

theorem tickOut_inRange {s : State} (hc : s.cfg.valid = true) : OutInRange s.cfg (tickOut s) := by
  obtain ⟨-, hw, -⟩ := valid_mixer hc
  exact wrapS_bounds hw _

end Sys2Proof.Machine
end

section
/-! O45: the invariant over every named update of the state, every operation an event selects, and a step. -/

namespace Sys2Proof.Machine

open Sys2Proof

variable {s : State}

/-! ### Updates -/

theorem State.Inv.setInputs (hs : s.Inv) (es : List Event) : (s.setInputs es).Inv := hs

theorem State.Inv.setLink (hs : s.Inv) (ps : List Packet) : (s.setLink ps).Inv := hs

theorem State.Inv.hostDoes (hs : s.Inv) {r : HostResult} (hr : r.1.Conforms s.cfg.nGenerators) : (s.hostDoes r).Inv := by
  obtain ⟨hcfg, hlen, hv, hg, hw, -, hout⟩ := hs
  exact ⟨hcfg, hlen, hv, hg, hw, hr, hout⟩

theorem State.Inv.setG (hs : s.Inv) {g : GlobalState} (hg : g.env.InRange s.cfg) : (s.setG g).Inv := by
  obtain ⟨hcfg, hlen, hv, -, hw, hhost, hout⟩ := hs
  exact ⟨hcfg, hlen, hv, hg, hw, hhost, hout⟩

theorem State.Inv.setV (hs : s.Inv) {vs : List Voice} (hlen : vs.length = s.cfg.nGenerators)
    (hv : ∀ v ∈ vs, v.InRange s.cfg) : (s.setV vs).Inv := by
  obtain ⟨hcfg, -, -, hg, hw, hhost, hout⟩ := hs
  exact ⟨hcfg, hlen, hv, hg, hw, hhost, hout⟩

theorem State.Inv.setWork_idle (hs : s.Inv) : (s.setWork Work.idle).Inv := by
  obtain ⟨hcfg, hlen, hv, hg, -, hhost, hout⟩ := hs
  exact ⟨hcfg, hlen, hv, hg, rfl, hhost, hout⟩

theorem State.Inv.emit (hs : s.Inv) {x : Int} (hx : OutInRange s.cfg x) : (s.emit x).Inv := by
  obtain ⟨hcfg, hlen, hv, hg, hw, hhost, hout⟩ := hs
  refine ⟨hcfg, hlen, hv, hg, hw, hhost, fun y hy => ?_⟩
  rcases List.mem_append.1 hy with hy | hy
  · exact hout y hy
  · obtain rfl := List.mem_singleton.1 hy
    exact hx

theorem State.Inv.modifyVoice (hs : s.Inv) (i : Slot) {f : Voice → Voice}
    (hf : ∀ v, v.InRange s.cfg → (f v).InRange s.cfg) : (s.modifyVoice i f).Inv := by
  have ⟨_, hlen, hv, _⟩ := hs
  rcases modifyVoice_cases (s := s) (i := i) f with he | ⟨v, hi, he⟩ <;> rw [he]
  · exact hs
  · refine hs.setV (by simpa using hlen) fun w hw => ?_
    rcases List.mem_or_eq_of_mem_set hw with hw | rfl
    · exact hv w hw
    · exact hf v (hv v (List.mem_of_getElem? (voice?_some hi).2))

/-! ### Operations -/

theorem State.Inv.resetBlock (hs : s.Inv) : (resetBlock s).Inv := by
  have hv : ∀ v ∈ List.replicate s.cfg.nGenerators Voice.zero, v.InRange s.cfg := fun v hv => by
    obtain rfl := List.eq_of_mem_replicate hv
    exact zeroVoice_inRange _
  exact (((hs.setG (zeroEnvelope_inRange _)).setV List.length_replicate hv).setWork_idle).setLink []

theorem State.Inv.tick (hs : s.Inv) :
    (((s.setV (s.v.map (afterTick s.cfg s.g))).setWork Work.idle).emit (tickOut s)).Inv := by
  have ⟨hcfg, hlen, hv, hg, _⟩ := hs
  have hv' : ∀ w ∈ s.v.map (afterTick s.cfg s.g), w.InRange s.cfg := fun w hw => by
    obtain ⟨v, hmem, rfl⟩ := List.mem_map.1 hw
    exact afterTick_inRange hcfg hg (hv v hmem)
  exact ((hs.setV (by simpa using hlen) hv').setWork_idle).emit (tickOut_inRange hcfg)

/-- Every operation that an event of the block selects completes and keeps the invariant; the steps inside `TICK` need not, as they
leave working values behind (log 5). -/
theorem exec_selected_inv {i : Instr} (hs : s.Inv) (hi : selectedByEvent i = true) :
    ∃ t, exec i s = .next t ∧ t.Inv := by
  have ⟨hcfg, _⟩ := hs
  cases i with
  | reset => exact ⟨_, exec_reset s, hs.resetBlock⟩
  | tick => exact ⟨_, exec_tick s, hs.tick⟩
  | pktGlobal r => exact ⟨_, exec_pktGlobal s r, hs.setG (storeGlobal_inRange hcfg r)⟩
  | pktGenerator j rf a =>
    exact ⟨_, exec_pktGenerator s j rf a, hs.modifyVoice j fun _ hv => assignVoice_inRange hv rf a⟩
  | pktIgnored => exact ⟨_, exec_pktIgnored s, hs⟩
  | _ => cases hi

/-! ### Steps -/

/-- Taking an event changes at most the surroundings, and a host's event leaves the host conforming. -/
theorem takeEvent_keeps_inv (hs : s.Inv) (e : Event) : (takeEvent e s).2.Inv := by
  have ⟨hcfg, _, _, _, _, hhost, _⟩ := hs
  cases e with
  | reset => exact hs
  | tick => exact hs
  | cmd pkt => exact hs
  | deliver =>
    simp only [takeEvent, deliverNext]
    split
    · exact hs
    · exact hs.setLink _
  | midi msg => exact hs.hostDoes (midiMessage_conforms hhost msg)
  | hostStart r sync => exact hs.hostDoes (hostStart_conforms (valid_sizes hcfg).1 _ r sync)
  | hostSet vol env => exact hs.hostDoes (hostSet_conforms hhost vol env)

theorem takeNext_keeps_inv (hs : s.Inv) : (takeNext s).2.Inv := by
  unfold takeNext
  split
  · exact hs
  · exact takeEvent_keeps_inv (hs.setInputs _) _

/-- Settles O45: taking the event keeps the invariant, and so does the operation it selects. -/
theorem stepKeepsInvariant : Obligations.StepKeepsInvariant := by
  intro s t hs ht
  have ⟨hcfg, _⟩ := hs
  have hu := takeNext_keeps_inv hs
  rw [step_valid hcfg] at ht
  rcases takeNext_cases s with ⟨i, u, htake, hi, -⟩ | ⟨u, htake, -⟩
  · rw [htake] at ht hu
    obtain ⟨t', hexec, hinv⟩ := exec_selected_inv hu hi
    cases hexec.symm.trans ht
    exact hinv
  · rw [htake] at ht hu
    cases ht
    exact hu

end Sys2Proof.Machine
end

section
/-! O48: R8 as the step checks it and R8 as written. The check tries the bends -128 and 127 of each note; frequency grows with
the bend and the wavelength falls with the frequency, so these two bound all 256. -/

namespace Sys2Proof.Machine

open Sys2Proof

variable {c : Cfg}

/-- R8 item 5 for one note: the two extreme bends speak for every bend. -/
theorem extremeBends_iff_everyBend (n : Nat) :
    (1 ≤ c.bent n (-128) ∧ wavelengthOf c (c.bent n (-128)) + c.lifeScale < 2 ^ c.phaseW ∧
      1 ≤ wavelengthOf c (c.bent n 127)) ↔
    ∀ b : Int, -128 ≤ b → b ≤ 127 →
      1 ≤ c.bent n b ∧ 1 ≤ wavelengthOf c (c.bent n b) ∧ wavelengthOf c (c.bent n b) + c.lifeScale < 2 ^ c.phaseW := by
  constructor
  · rintro ⟨hfreq, hlong, hshort⟩ b hlo hhi
    have hf : c.bent n (-128) ≤ c.bent n b := bendFrequency_mono _ hlo
    have hf' : c.bent n b ≤ c.bent n 127 := bendFrequency_mono _ hhi
    have hpos : 1 ≤ c.bent n b := Nat.le_trans hfreq hf
    have hw := wavelengthOf_antitone (c := c) hfreq hf
    have hw' := wavelengthOf_antitone (c := c) hpos hf'
    exact ⟨hpos, Nat.le_trans hshort hw', by omega⟩
  · intro h
    obtain ⟨hfreq, -, hlong⟩ := h (-128) (by decide) (by decide)
    obtain ⟨-, hshort, -⟩ := h 127 (by decide) (by decide)
    exact ⟨hfreq, hlong, hshort⟩

/-- R8 items 3 and 5 over all notes. -/
theorem noteChecks_iff :
    (∀ n < 128, 1 ≤ noteFreqAt c n ∧ 1 ≤ c.bent n (-128) ∧
      wavelengthOf c (c.bent n (-128)) + c.lifeScale < 2 ^ c.phaseW ∧ 1 ≤ wavelengthOf c (c.bent n 127)) ↔
    (∀ n < 128, 1 ≤ noteFreqAt c n) ∧
    ∀ n < 128, ∀ b : Int, -128 ≤ b → b ≤ 127 →
      1 ≤ c.bent n b ∧ 1 ≤ wavelengthOf c (c.bent n b) ∧ wavelengthOf c (c.bent n b) + c.lifeScale < 2 ^ c.phaseW := by
  simp only [extremeBends_iff_everyBend, forall_and]

/-- R8 item 8: checking the first entries of a table that is long enough is checking every entry below its length. -/
theorem take_forall_iff_entries {P : Int → Prop} (l : List Int) (m : Nat) :
    (m ≤ l.length ∧ ∀ x ∈ l.take m, P x) ↔ ∀ k < m, ∃ x, l[k]? = some x ∧ P x := by
  constructor
  · rintro ⟨hlen, hall⟩ k hk
    have hk' : k < l.length := by omega
    exact ⟨l[k], List.getElem?_eq_getElem hk', hall _ (List.mem_take_iff_getElem.2 ⟨k, by omega, rfl⟩)⟩
  · intro h
    refine ⟨?_, fun x hx => ?_⟩
    · by_contra hlen
      obtain ⟨x, hx, -⟩ := h l.length (by omega)
      simp at hx
    · obtain ⟨k, hk, rfl⟩ := List.mem_take_iff_getElem.1 hx
      obtain ⟨x, hx, hP⟩ := h k (by omega)
      rwa [(List.getElem_eq_iff _).2 hx]

/-- Settles O48, item by item: all but the notes and the sine table stand in both forms alike. -/
theorem configurationCheckIsR8 : Obligations.ConfigurationCheckIsR8 := by
  intro c
  rw [valid_iff, noteChecks_iff, take_forall_iff_entries, Cfg.MeetsR8]
  tauto

end Sys2Proof.Machine
end

section
/-! O49: the reference configuration. The sine table is its first half followed by the negated first half, so its odd symmetry
holds by its making; the roundings and the even symmetry are facts of the data. -/

namespace Sys2Proof.Machine

open Sys2Proof

theorem sineHalfTable_length : sineHalfTable.length = 128 := by simp [sineHalfTable]

/-- R96: the table is odd about its half. -/
theorem reference_sine_odd {k : Nat} (hk : k < 128) : sineAt Cfg.reference (128 + k) = -sineAt Cfg.reference k := by
  have h : k < sineHalfTable.length := by rw [sineHalfTable_length]; exact hk
  change (sineHalfTable ++ sineHalfTable.map (fun x => -x)).getD (128 + k) 0 =
    -(sineHalfTable ++ sineHalfTable.map (fun x => -x)).getD k 0
  rw [List.getD_append _ _ _ _ h, List.getD_append_right _ _ _ _ (by rw [sineHalfTable_length]; omega),
    sineHalfTable_length, Nat.add_sub_cancel_left, ← neg_zero, List.getD_map, neg_zero]

/-- R96: the table is even about its quarter. -/
theorem reference_sine_even : ∀ k ≤ 128, sineAt Cfg.reference (128 - k) = sineAt Cfg.reference k := by
  set_option maxRecDepth 4000 in decide

/-- R77, R78: every entry of the note table is the rounding of its formula. -/
theorem reference_notes_rounded : ∀ n < 128, Cfg.reference.isRoundedNote n (noteFreqAt Cfg.reference n) := by
  unfold Cfg.isRoundedNote
  set_option maxRecDepth 4000 in decide

/-- R80: the bend scale is the rounding of its formula. -/
theorem reference_scale_rounded : Cfg.reference.isRoundedScale := by
  unfold Cfg.isRoundedScale
  decide

/-- Settles O49, from the facts of the reference tables above. -/
theorem referenceConfiguration : Obligations.ReferenceConfiguration :=
  ⟨reference_valid, reference_notes_rounded, reference_scale_rounded, rfl, fun _ => reference_sine_odd, reference_sine_even⟩

end Sys2Proof.Machine
end

section
/-! R52: the decoder reads back what the encoder laid out, whatever bytes follow. -/

namespace Sys2Proof

variable (c : Cfg)

theorem readGlobal_encodeGlobal (r : GlobalRecord) (extra : Packet) : readGlobal (encodeGlobal r ++ extra) = r := by
  obtain ⟨vol, ⟨attack, decay, sustain, release⟩, bend⟩ := r
  have hbend : ∀ k (hk : k < 16), (bend.toList ++ extra).getD k 0 = bend[k] := fun k hk => by
    rw [List.getD_append _ _ _ _ (by simpa using hk), List.getD_eq_getElem _ _ (by simpa using hk), Vector.getElem_toList]
  simp only [readGlobal, GlobalRecord.mk.injEq, EnvRecord.mk.injEq]
  refine ⟨rfl, ⟨append_slices32 attack, append_slices32 decay, rfl, append_slices32 release⟩, ?_⟩
  ext k hk : 1
  interval_cases k <;> exact hbend _ hk

/-- A packet with tag 1 is accepted from 31 bytes on (R51). -/
theorem decode_of_tagGlobal {pkt : Packet} (htag : pkt.head? = some tagGlobal) (hlen : lenGlobal ≤ pkt.length) :
    decode c pkt = .pktGlobal (readGlobal pkt) := by
  cases pkt with
  | nil => cases htag
  | cons tag rest =>
    cases htag
    rw [decode, classify, if_pos rfl, if_pos hlen]

/-- A packet with tag 2 is accepted from 9 bytes on, if its slot exists (R51). -/
theorem decode_of_tagGenerator {pkt : Packet} (htag : pkt.head? = some tagGenerator) (hlen : lenGenerator ≤ pkt.length)
    (hslot : slotValid c (le16 pkt 1) = true) :
    decode c pkt = .pktGenerator (le16 pkt 1) (byteAt pkt 3) (readAssignment pkt) := by
  cases pkt with
  | nil => cases htag
  | cons tag rest =>
    cases htag
    rw [decode, classify, if_neg (by decide), if_pos rfl, if_neg (Nat.not_lt.2 hlen),
      if_neg (Nat.not_le.2 (of_decide_eq_true hslot))]

theorem decode_encodeGlobal (r : GlobalRecord) (extra : Packet) : decode c (encodeGlobal r ++ extra) = .pktGlobal r := by
  rw [decode_of_tagGlobal c rfl (by simp [encodeGlobal_length]), readGlobal_encodeGlobal]

theorem decode_encodeGenerator {i : Slot} (hi : slotValid c i = true) (rf : Byte) (a : Assignment) (extra : Packet) :
    decode c (encodeGenerator i rf a ++ extra) = .pktGenerator i rf a := by
  have hslot : le16 (encodeGenerator i rf a ++ extra) 1 = i := append_slices16 i
  rw [decode_of_tagGenerator c rfl (by simp [encodeGenerator_length]) (by rwa [hslot]), hslot]
  rfl

end Sys2Proof
end

section
/-! O58, the block's half: a packet changes of the block only `G` and the assignments as far as agreement can see
(spec/10_state.md R11, R15), so what the packets in flight do is a fold over them. -/

namespace Sys2Proof.Machine

open Sys2Proof

/-- What both planes hold a copy of: `G` and the assignments (R15, R11). -/
abbrev Replica := GlobalState × List Assignment

/-- The block's copy. -/
def State.replica (s : State) : Replica := (s.g, s.v.map (·.assign))

/-- The host's copy, as the block would store it. -/
def ControlPlane.replica (c : Cfg) (h : ControlPlane) : Replica := (storeGlobal c h.globals, h.table)

/-- What a received packet does to the block's copy. -/
def receive (c : Cfg) (r : Replica) (p : Packet) : Replica :=
  match decode c p with
  | .pktGlobal g => (storeGlobal c g, r.2)
  | .pktGenerator i _ a => (r.1, r.2.set i.toNat a)
  | _ => r

variable {c : Cfg} {s : State}

@[simp] theorem assignVoice_assign (rf : Byte) (a : Assignment) (v : Voice) : (assignVoice rf a v).assign = a := by
  unfold assignVoice; split <;> rfl

@[simp] theorem modifyVoice_cfg (i : Slot) (f : Voice → Voice) : (s.modifyVoice i f).cfg = s.cfg := by
  unfold State.modifyVoice; split <;> rfl
@[simp] theorem modifyVoice_g (i : Slot) (f : Voice → Voice) : (s.modifyVoice i f).g = s.g := by
  unfold State.modifyVoice; split <;> rfl
@[simp] theorem modifyVoice_link (i : Slot) (f : Voice → Voice) : (s.modifyVoice i f).link = s.link := by
  unfold State.modifyVoice; split <;> rfl
@[simp] theorem modifyVoice_control (i : Slot) (f : Voice → Voice) : (s.modifyVoice i f).control = s.control := by
  unfold State.modifyVoice; split <;> rfl

/-- A rewrite that gives slot `i` the assignment `a` writes `a` into the list of assignments. -/
theorem modifyVoice_assign {i : Slot} (hi : slotValid s.cfg i = true) {f : Voice → Voice} {a : Assignment}
    (hf : ∀ v, (f v).assign = a) : (s.modifyVoice i f).v.map (·.assign) = (s.v.map (·.assign)).set i.toNat a := by
  cases hv : s.v[i.toNat]? with
  | some v => rw [modifyVoice_some f (voice?_eq_some hi hv), State.setV_v, List.map_set, hf]
  | none =>
    have hlen : (s.v.map (·.assign)).length ≤ i.toNat := by simpa using hv
    rw [modifyVoice_none f (by simp [State.voice?, hi, hv]), List.set_eq_of_length_le hlen]

/-- A received packet completes; it acts on the block's copy as `receive` says and leaves host, link and configuration alone. -/
theorem exec_decode_receives (s : State) (p : Packet) :
    ∃ t, exec (decode s.cfg p) s = .next t ∧ t.replica = receive s.cfg s.replica p ∧
      t.cfg = s.cfg ∧ t.link = s.link ∧ t.control = s.control := by
  rcases decode_cases s.cfg p with h | ⟨g, h⟩ | ⟨i, rf, a, h, hi⟩
  · exact ⟨s, by rw [h, exec_pktIgnored], by rw [receive, h], rfl, rfl, rfl⟩
  · exact ⟨s.setG (storeGlobal s.cfg g), by rw [h, exec_pktGlobal], by rw [receive, h]; rfl, rfl, rfl, rfl⟩
  · refine ⟨s.modifyVoice i (assignVoice rf a), by rw [h, exec_pktGenerator], ?_, by simp, by simp, by simp⟩
    rw [receive, h, State.replica, modifyVoice_assign hi (assignVoice_assign rf a), modifyVoice_g]
    rfl

theorem afterLink_replica (ps : List Packet) (s : State) :
    (afterLink s ps).replica = ps.foldl (receive s.cfg) s.replica := by
  induction ps generalizing s with
  | nil => rfl
  | cons p ps ih =>
    obtain ⟨t, hexec, hreplica, hcfg, -⟩ := exec_decode_receives s p
    rw [afterLink, hexec, List.foldl_cons, ← hreplica, ← hcfg]
    exact ih t

/-- Agreement: the packets in flight turn the block's copy into the host's. -/
theorem agrees_iff : s.Agrees ↔ s.link.foldl (receive s.cfg) s.replica = s.control.replica s.cfg := by
  rw [← afterLink_replica]
  exact (Prod.ext_iff (x := (afterLink s s.link).replica) (y := s.control.replica s.cfg)).symm

theorem receive_length (r : Replica) (p : Packet) : (receive c r p).2.length = r.2.length := by
  unfold receive
  split <;> simp

theorem foldl_receive_length (ps : List Packet) (r : Replica) : (ps.foldl (receive c) r).2.length = r.2.length := by
  induction ps generalizing r with
  | nil => rfl
  | cons p ps ih => rw [List.foldl_cons, ih, receive_length]

/-! ### Events of the block -/

theorem State.Agrees.setInputs (hs : s.Agrees) (es : List Event) : (s.setInputs es).Agrees := by
  rw [agrees_iff] at hs ⊢
  exact hs

/-- A `TICK` writes no assignment and not `G` (R19). -/
theorem State.Agrees.tick {t : State} (hs : s.Agrees) (ht : exec .tick s = .next t) : t.Agrees := by
  rw [exec_tick] at ht
  cases ht
  have hv : (s.v.map (afterTick s.cfg s.g)).map (·.assign) = s.v.map (·.assign) := by
    rw [List.map_map]; rfl
  rw [agrees_iff, State.replica, hv]
  exact agrees_iff.1 hs

/-- A delivery applies the oldest packet in flight, which agreement had counted already. -/
theorem State.Agrees.deliver {t : State} {p : Packet} {ps : List Packet} (hs : s.Agrees) (hl : s.link = p :: ps)
    (ht : exec (decode s.cfg p) (s.setLink ps) = .next t) : t.Agrees := by
  obtain ⟨t', hexec, hreplica, hcfg, hlink, hcontrol⟩ := exec_decode_receives (s.setLink ps) p
  cases hexec.symm.trans ht
  rw [agrees_iff, hl, List.foldl_cons] at hs
  rw [agrees_iff, hlink, hcontrol, hreplica, hcfg]
  exact hs

end Sys2Proof.Machine
end

section
/-! O58, the host's half: the packets a host procedure sends carry over exactly what it changed in the host's own copy
(spec/40_host_control_plane.md R59 to R61, R67, R69). -/

namespace Sys2Proof.Machine

open Sys2Proof

variable {c : Cfg} {s : State} {h : ControlPlane}

theorem receive_encodeGlobal (r : Replica) (g : GlobalRecord) : receive c r (encodeGlobal g) = (storeGlobal c g, r.2) := by
  have hd := decode_encodeGlobal c g []
  rw [List.append_nil] at hd
  rw [receive, hd]

/-- Every slot index of a valid configuration fits the 16 bits of the packet (R8 item 1). -/
theorem receive_genPacket (hc : c.valid = true) {j : Nat} (hj : j < c.nGenerators) (r : Replica) (a : Assignment) :
    receive c r (genPacket j a) = (r.1, r.2.set j a) := by
  obtain ⟨-, hn, -⟩ := valid_sizes hc
  have htoNat : (BitVec.ofNat 16 j).toNat = j := by
    rw [BitVec.toNat_ofNat]
    exact Nat.mod_eq_of_lt (by omega)
  have hd := decode_encodeGenerator c (slotValid_iff.2 (by rwa [htoNat])) 1 a []
  rw [List.append_nil] at hd
  rw [receive, genPacket, hd]
  simp only [htoNat]

/-- The packets of `r` carry over what the procedure changed of the host `h`. -/
def Announces (c : Cfg) (h : ControlPlane) (r : HostResult) : Prop :=
  r.2.foldl (receive c) (h.replica c) = r.1.replica c

/-- A host that announces its changes keeps the planes in agreement. -/
theorem State.Agrees.hostDoes (hs : s.Agrees) {r : HostResult} (hr : Announces s.cfg s.control r) :
    (s.hostDoes r).Agrees := by
  rw [agrees_iff] at hs ⊢
  rw [State.hostDoes_link, List.foldl_append]
  exact (congrArg (r.2.foldl (receive s.cfg)) hs).trans hr

theorem announces_nothing : Announces c h (h, []) := rfl

theorem announces_globals (r : GlobalRecord) : Announces c h ({ h with globals := r }, [encodeGlobal r]) :=
  receive_encodeGlobal _ r

theorem announces_entry (hc : c.valid = true) {j : Nat} (hj : j < c.nGenerators) (a : Assignment) (k : Nat) :
    Announces c h ({ h.setEntry j a with cursor := k }, [genPacket j a]) :=
  receive_genPacket hc hj _ a

theorem noteOff_announces (hc : c.valid = true) (ch : BitVec 4) (note vel : Byte) :
    Announces c h (noteOff c.nGenerators h ch note vel) := by
  unfold noteOff
  split
  · exact announces_nothing
  · next j hj => exact announces_entry hc (findMatching_lt hj) _ h.cursor

theorem allocate_announces (hc : c.valid = true) (ch : BitVec 4) (note vel : Byte) :
    Announces c h (allocate c.nGenerators h ch note vel) := by
  unfold allocate
  split
  · exact announces_nothing
  · next j hj => exact announces_entry hc (findVacant_lt hj) _ _

theorem noteOn_announces (hc : c.valid = true) (ch : BitVec 4) (note vel : Byte) :
    Announces c h (noteOn c.nGenerators h ch note vel) := by
  unfold noteOn
  split
  · exact noteOff_announces hc ch note vel
  · exact allocate_announces hc ch note vel

theorem midiMessage_announces (hc : c.valid = true) (msg : Packet) :
    Announces c h (midiMessage c.nGenerators h msg) := by
  unfold midiMessage
  split
  · exact noteOff_announces hc _ _ _
  · exact noteOn_announces hc _ _ _
  · exact announces_globals _
  · exact announces_nothing
  · exact announces_nothing

theorem hostSet_announces (vol : Byte) (env : EnvRecord) : Announces c h (hostSet h vol env) := announces_globals _

/-! ### The synchronising start -/

/-- One packet for each of the first `m` slots overwrites those slots and no other. -/
theorem foldl_receive_genPackets (hc : c.valid = true) (a : Assignment) (r : Replica)
    (hr : r.2.length = c.nGenerators) {m : Nat} (hm : m ≤ c.nGenerators) :
    ((List.range m).map (genPacket · a)).foldl (receive c) r = (r.1, List.replicate m a ++ r.2.drop m) := by
  induction m with
  | zero => rfl
  | succ m ih =>
    have hdrop : r.2.drop m = r.2[m] :: r.2.drop (m + 1) := List.drop_eq_getElem_cons (by omega)
    rw [List.range_succ, List.map_append, List.foldl_append, ih (by omega), List.map_singleton, List.foldl_cons,
      List.foldl_nil, receive_genPacket hc (by omega), List.set_append_right _ _ (by simp), List.length_replicate,
      Nat.sub_self, hdrop, List.set_cons_zero, List.replicate_succ', List.append_assoc]
    rfl

/-- The synchronising packets of a fresh host: its records are zero already (R55, R137). -/
theorem syncPackets_fresh {n : Nat} {h : ControlPlane} (ht : h.table = List.replicate n zeroAssignment) :
    syncPackets n h = (List.range n).map (genPacket · zeroAssignment) := by
  refine List.map_congr_left fun j hj => ?_
  have hentry : h.entry j = zeroAssignment := by
    rw [ControlPlane.entry, ht, List.getD_replicate _ (List.mem_range.1 hj)]
  rw [hentry]
  rfl

/-- A start with synchronising packets overwrites the block's whole copy, whatever was in it (R137, R138). -/
theorem hostStart_sync_overwrites (hc : c.valid = true) (h : ControlPlane) (g : GlobalRecord) (r : Replica)
    (hr : r.2.length = c.nGenerators) :
    (hostStart c.nGenerators h g true).2.foldl (receive c) r = (hostStart c.nGenerators h g true).1.replica c := by
  have hsent : (hostStart c.nGenerators h g true).2 =
      encodeGlobal g :: (List.range c.nGenerators).map (genPacket · zeroAssignment) :=
    congrArg (encodeGlobal g :: ·) (syncPackets_fresh rfl)
  rw [hsent, List.foldl_cons, receive_encodeGlobal, foldl_receive_genPackets hc _ (storeGlobal c g, r.2) hr le_rfl,
    List.drop_of_length_le hr.le, List.append_nil]
  rfl

theorem hostStart_sync_agrees (hc : s.cfg.valid = true) (hlen : s.v.length = s.cfg.nGenerators) (g : GlobalRecord) :
    (s.hostDoes (hostStart s.cfg.nGenerators s.control g true)).Agrees := by
  have hcopy : (s.link.foldl (receive s.cfg) s.replica).2.length = s.cfg.nGenerators := by
    rw [foldl_receive_length, State.replica, List.length_map, hlen]
  rw [agrees_iff, State.hostDoes_link, List.foldl_append]
  exact hostStart_sync_overwrites hc _ g _ hcopy

/-- Settles O58: each event of the block applies to its copy what agreement expects of it, and each event of the host sends what it
changed. -/
theorem planesStayInAgreement : Obligations.PlanesStayInAgreement := by
  intro s t e es hc hlen _ _ he ht
  rw [step_cons hc he] at ht
  constructor
  · intro hevent hs
    have hs' := hs.setInputs es
    rcases hevent with rfl | rfl | ⟨msg, rfl⟩ | ⟨vol, env, rfl⟩
    · exact hs'.tick ht
    · simp only [takeEvent, deliverNext, State.setInputs_link] at ht
      cases hl : s.link with
      | nil =>
        rw [hl] at ht
        cases ht
        exact hs'
      | cons p ps =>
        rw [hl] at ht
        exact hs'.deliver hl ht
    · cases ht
      exact hs'.hostDoes (midiMessage_announces hc msg)
    · cases ht
      exact hs'.hostDoes (hostSet_announces vol env)
  · rintro ⟨r, rfl⟩
    cases ht
    exact hostStart_sync_agrees (s := s.setInputs es) hc hlen r

end Sys2Proof.Machine
end

section
/-! O35, O44: what a `TICK` and the other selected operations write, slot by slot (spec/10_state.md R19, R20). -/

namespace Sys2Proof.Machine

open Sys2Proof

variable {s t : State}

/-- A slot after a `TICK` is its voice stepped once (R113). -/
theorem exec_tick_slot (ht : exec .tick s = .next t) {k : Nat} {v w : Voice} (hv : s.v[k]? = some v)
    (hw : t.v[k]? = some w) : w = afterTick s.cfg s.g v := by
  rw [exec_tick] at ht
  cases ht
  simpa [hv] using hw.symm

/-- Settles O35: the last thing a voice step does is to wrap the phase below the wavelength it used (R86). -/
theorem phaseInsidePeriodAfterTick : Obligations.PhaseInsidePeriodAfterTick := by
  intro s t k v w ht hv hw hpos
  rw [exec_tick_slot ht hv hw]
  exact advancedPhase_lt hpos

/-- What the rewrite of slot `i` leaves in slot `k`: the rewritten voice if they are one slot, else what was there. -/
theorem modifyVoice_slot {i : Slot} {f : Voice → Voice} {k : Nat} {v w : Voice} (hv : s.v[k]? = some v)
    (hw : (s.modifyVoice i f).v[k]? = some w) : w = v ∨ (i.toNat = k ∧ w = f v) := by
  rcases modifyVoice_cases (s := s) (i := i) f with he | ⟨u, hu, he⟩ <;> rw [he] at hw
  · exact .inl (Option.some.inj (hw.symm.trans hv))
  · obtain ⟨-, hu⟩ := voice?_some hu
    rw [State.setV_v] at hw
    by_cases hik : i.toNat = k
    · subst hik
      cases hu.symm.trans hv
      rw [List.getElem?_set_self (List.getElem?_eq_some_iff.1 hv).1] at hw
      exact .inr ⟨rfl, (Option.some.inj hw).symm⟩
    · rw [List.getElem?_set_ne hik] at hw
      exact .inl (Option.some.inj (hw.symm.trans hv))

/-- R19 for one slot: who may have written what, if operation `i` found the voice `v` in slot `k` and left `w`. -/
def SlotWritten (i : Instr) (k : Nat) (v w : Voice) : Prop :=
  (w.assign ≠ v.assign → i = .reset ∨ ∃ j rf, i = .pktGenerator j rf w.assign ∧ j.toNat = k) ∧
  (w.life ≠ v.life ∨ w.phase ≠ v.phase →
    i = .reset ∨ i = .tick ∨
      ∃ j rf a, i = .pktGenerator j rf a ∧ j.toNat = k ∧ rf ≠ 0 ∧ w.life = 0 ∧ w.phase = 0) ∧
  (w.latched ≠ v.latched → i = .reset ∨ (i = .tick ∧ v.assign.enabled ≠ 0))

/-- Nothing written, nothing to account for. -/
theorem slotWritten_refl (i : Instr) (k : Nat) (v : Voice) : SlotWritten i k v v :=
  ⟨fun h => absurd rfl h, fun h => (h.elim (· rfl) (· rfl)).elim, fun h => absurd rfl h⟩

theorem slotWritten_of_unwritten (i : Instr) {vs : List Voice} {k : Nat} {v w : Voice} (hv : vs[k]? = some v)
    (hw : vs[k]? = some w) : SlotWritten i k v w :=
  Option.some.inj (hv.symm.trans hw) ▸ slotWritten_refl i k v

theorem slotWritten_tick (c : Cfg) (g : GlobalState) (k : Nat) (v : Voice) :
    SlotWritten .tick k v (afterTick c g v) := by
  refine ⟨fun h => absurd rfl h, fun _ => .inr (.inl rfl), fun hlatched => .inr ⟨rfl, ?_⟩⟩
  rw [← isEnabled_eq_true]
  by_contra hoff
  exact hlatched (if_neg hoff)

theorem slotWritten_generator (j : Slot) (rf : Byte) (a : Assignment) (v : Voice) :
    SlotWritten (.pktGenerator j rf a) j.toNat v (assignVoice rf a v) := by
  refine ⟨fun _ => .inr ⟨j, rf, by rw [assignVoice_assign], rfl⟩, ?_⟩
  unfold assignVoice
  split
  · next hrf => exact ⟨fun _ => .inr (.inr ⟨j, rf, a, rfl, rfl, bne_iff_ne.1 hrf, rfl, rfl⟩), fun h => absurd rfl h⟩
  · exact ⟨fun h => (h.elim (· rfl) (· rfl)).elim, fun h => absurd rfl h⟩

/-- Settles O44, one operation at a time: what a selected operation other than RESET leaves in a slot is the voice as it was, its
`TICK` step or the rewrite of the addressed slot. -/
theorem writeMatrix : Obligations.WriteMatrix := by
  intro i s t hi ht
  cases i with
  | reset =>
    cases ht
    exact ⟨rfl, fun _ => .inl rfl, fun _ _ _ _ _ => ⟨fun _ => .inl rfl, fun _ => .inl rfl, fun _ => .inl rfl⟩⟩
  | tick =>
    have hslot : ∀ (k : Nat) (v w : Voice), s.v[k]? = some v → t.v[k]? = some w → SlotWritten .tick k v w :=
      fun k v w hv hw => exec_tick_slot ht hv hw ▸ slotWritten_tick _ _ k v
    rw [exec_tick] at ht
    cases ht
    exact ⟨rfl, fun h => absurd rfl h, hslot⟩
  | pktGlobal r =>
    cases ht
    exact ⟨rfl, fun _ => .inr ⟨r, rfl⟩, fun _ _ _ => slotWritten_of_unwritten _⟩
  | pktGenerator j rf a =>
    cases ht
    refine ⟨modifyVoice_cfg j _, fun h => absurd (modifyVoice_g j _) h, fun k v w hv hw => ?_⟩
    rcases modifyVoice_slot hv hw with rfl | ⟨rfl, rfl⟩
    · exact slotWritten_refl _ k w
    · exact slotWritten_generator j rf a v
  | pktIgnored =>
    cases ht
    exact ⟨rfl, fun h => absurd rfl h, fun _ _ _ => slotWritten_of_unwritten _⟩
  | _ => cases hi

end Sys2Proof.Machine
end

section
/-! O46: the state after reset (spec/10_state.md R27, spec/70_reset_and_hazards.md R135). -/

namespace Sys2Proof.Machine

open Sys2Proof

/-- The voices of the reset state are all the zero voice (R27). -/
theorem mem_reset_voices {v : Voice} (hv : v ∈ State.reset.v) : v = Voice.zero := List.eq_of_mem_replicate hv

/-- The host's initial values are those of a fresh start with a zero record (R55, log 10), so they conform. -/
theorem ControlPlane.initial_conforms {c : Cfg} (hc : c.valid = true) : (ControlPlane.initial c).Conforms c.nGenerators :=
  hostStart_conforms (valid_sizes hc).1 (ControlPlane.initial c) zeroRecord false

theorem reset_inv : State.reset.Inv :=
  ⟨reference_valid, List.length_replicate, fun _ hv => mem_reset_voices hv ▸ zeroVoice_inRange _, zeroEnvelope_inRange _, rfl,
    ControlPlane.initial_conforms reference_valid, fun _ hx => nomatch hx⟩

theorem reset_quiet : State.reset.Quiet := fun _ hv => mem_reset_voices hv ▸ ⟨rfl, rfl⟩

/-- Settles O46: a zero fits every register, and a zero voice is disabled with nothing latched. -/
theorem resetMeetsInvariant : Obligations.ResetMeetsInvariant := ⟨reset_inv, reset_quiet⟩

end Sys2Proof.Machine
end

section
/-! O4: the byte order of the packet fields (spec/20_memory.md R33). -/

namespace Sys2Proof

theorem le16_toNat (pkt : Packet) (k : Nat) :
    (le16 pkt k).toNat = (byteAt pkt k).toNat + 256 * (byteAt pkt (k + 1)).toNat := by
  rw [le16, append_toNat]
  omega

theorem le32_toNat (pkt : Packet) (k : Nat) :
    (le32 pkt k).toNat =
      (byteAt pkt k).toNat + 2 ^ 8 * (byteAt pkt (k + 1)).toNat + 2 ^ 16 * (byteAt pkt (k + 2)).toNat +
        2 ^ 24 * (byteAt pkt (k + 3)).toNat := by
  rw [le32, append_toNat, append_toNat, append_toNat]
  omega

/-- Settles O4: the slot index is the 16-bit field at offset 1, the durations the 32-bit fields at 2, 6 and 11. -/
theorem fieldsAreLittleEndian : Obligations.FieldsAreLittleEndian := fun pkt =>
  ⟨le16_toNat pkt 1, le32_toNat pkt 2, le32_toNat pkt 6, le32_toNat pkt 11⟩

end Sys2Proof
end

section
/-! O39: an operation on a slot that does not exist (spec/20_memory.md R29; log 6). -/

namespace Sys2Proof.Machine

open Sys2Proof

/-- Settles O39: the operations that name a slot act on it through `modifyVoice` or `onSlot`, and both leave the state alone where
there is no such slot; the others are always well-formed. -/
theorem noSuchSlotDoesNothing : Obligations.NoSuchSlotDoesNothing := by
  intro i s h
  cases i with
  | reset | tick | pktGlobal _ | pktIgnored | mixAccumulate | mixScale => cases h
  | pktGenerator j rf a => rw [exec_pktGenerator, modifyVoice_none _ (voice?_invalid h)]
  | waveSquare j | waveTriangle j | waveSawtooth j | waveSine j | waveNone j
  | envRelease j | envAttack j | envDecay j | envSustain j
  | noteToFrequency j | applyPitchBend j | frequencyToWavelength j | phaseNormalise j
  | latchUpdate j | voiceScale j | lifeAdvance j | phaseAdvance j | voiceStep j =>
    exact congrArg Host.Outcome.next (onSlot_none _ (voice?_invalid h))

end Sys2Proof.Machine
end

section
/-! O42, O43: the event a step takes and the operation it runs (spec/20_memory.md R36, spec/60_exceptions.md R132). -/

namespace Sys2Proof.Machine

open Sys2Proof

variable {s : State} {es : List Event}

theorem deliverNext_nil (hl : s.link = []) : deliverNext s = (none, s) := by rw [deliverNext, hl]

theorem deliverNext_cons {p : Packet} {ps : List Packet} (hl : s.link = p :: ps) :
    deliverNext s = (some (decode s.cfg p), s.setLink ps) := by rw [deliverNext, hl]

/-- With no event to come the block holds its state (R132). -/
theorem step_noEvent (hc : s.cfg.valid = true) (he : s.inputs = []) : step s = .next s := by
  rw [step_valid hc, takeNext, he]

/-- The bytes of a packet run as the operation they decode to. -/
theorem step_cmd {pkt : Packet} (hc : s.cfg.valid = true) (he : s.inputs = .cmd pkt :: es) :
    step s = exec (decode s.cfg pkt) (s.setInputs es) := step_cons hc he

/-- So do those of the oldest packet on the link, which leaves it (R36 (a)). -/
theorem step_deliver {p : Packet} {ps : List Packet} (hc : s.cfg.valid = true) (he : s.inputs = .deliver :: es)
    (hl : s.link = p :: ps) : step s = exec (decode s.cfg p) ((s.setInputs es).setLink ps) := by
  rw [step_cons hc he, takeEvent, deliverNext_cons (s := s.setInputs es) hl, State.setInputs_cfg]

/-- A delivery from an empty link only consumes the event (log 2). -/
theorem step_deliver_emptyLink (hc : s.cfg.valid = true) (he : s.inputs = .deliver :: es) (hl : s.link = []) :
    step s = .next (s.setInputs es) := by
  rw [step_cons hc he, takeEvent, deliverNext_nil (s := s.setInputs es) hl]

/-- Settles O42, one event at a time. -/
theorem stepRunsTheNextEvent : Obligations.StepRunsTheNextEvent := fun _ _ hc =>
  ⟨step_cons hc, step_cons hc, fun _ => step_cmd hc, fun _ _ => step_deliver hc, step_noEvent hc,
    step_deliver_emptyLink hc⟩

/-- Settles O43: placing a word prepends its packet as a `CMD` event, and taking that event gives back the state as it was. -/
theorem stepRunsTheFetchedWord : Obligations.StepRunsTheFetchedWord := by
  intro s nbits w hcfg
  have hc : (s.withFetchWord nbits w).cfg.valid = true := by
    change s.cfg.valid = true
    rw [hcfg, reference_valid]
  refine ⟨decode s.cfg (tablePacket nbits w), by rw [hcfg, decodeTableWord], ?_⟩
  exact step_cmd (es := s.inputs) hc rfl

end Sys2Proof.Machine
end

section
/-! O1, O2, O3: a received packet is accepted or discarded by its tag, its length and its slot (spec/30_encoding.md R51), and an
accepted one begins with the encoding of what it decodes to (R52). -/

namespace Sys2Proof

variable {c : Cfg} {pkt : Packet}

/-! ### Round trip -/

/-- Settles O1: for the operations with a packet, the round trips of the two layouts with no byte following, and the empty packet. -/
theorem decodeInvertsEncode : Obligations.DecodeInvertsEncode := by
  refine fun c => ⟨decode_encodeGlobal c, fun _ rf a extra hi => decode_encodeGenerator c hi rf a extra, ?_⟩
  intro i p hwf hp
  cases i with
  | pktGlobal r =>
    cases hp
    simpa using decode_encodeGlobal c r []
  | pktGenerator j rf a =>
    cases hp
    simpa using decode_encodeGenerator c hwf rf a []
  | pktIgnored =>
    cases hp
    rfl
  | _ => cases hp

/-! ### Discarded packets -/

theorem decode_of_discard {d : Discard} (h : classify c pkt = .error d) : decode c pkt = .pktIgnored := by
  rw [decode, h]

theorem classify_nil : classify c [] = .error .empty := rfl

theorem classify_shortGlobal (htag : pkt.head? = some tagGlobal) (hlen : pkt.length < lenGlobal) :
    classify c pkt = .error .shortGlobal := by
  cases pkt with
  | nil => cases htag
  | cons tag rest =>
    cases htag
    rw [classify, if_pos rfl, if_neg (Nat.not_le.2 hlen)]

theorem classify_shortGenerator (htag : pkt.head? = some tagGenerator) (hlen : pkt.length < lenGenerator) :
    classify c pkt = .error .shortGenerator := by
  cases pkt with
  | nil => cases htag
  | cons tag rest =>
    cases htag
    rw [classify, if_neg (by decide), if_pos rfl, if_pos hlen]

theorem classify_badSlot (htag : pkt.head? = some tagGenerator) (hlen : lenGenerator ≤ pkt.length)
    (hslot : c.nGenerators ≤ (le16 pkt 1).toNat) : classify c pkt = .error .badSlot := by
  cases pkt with
  | nil => cases htag
  | cons tag rest =>
    cases htag
    rw [classify, if_neg (by decide), if_pos rfl, if_neg (Nat.not_lt.2 hlen), if_pos hslot]

theorem classify_unknownTag {tag : Byte} (htag : pkt.head? = some tag) (h1 : tag ≠ tagGlobal) (h2 : tag ≠ tagGenerator) :
    classify c pkt = .error .unknownTag := by
  cases pkt with
  | nil => cases htag
  | cons tag rest =>
    cases htag
    rw [classify, if_neg h1, if_neg h2]

theorem head?_eq_byteAt (h : 1 ≤ pkt.length) : pkt.head? = some (byteAt pkt 0) := by
  cases pkt with
  | nil => cases h
  | cons tag rest => rfl

/-- Settles O3, one row of R51 at a time; the slot index is the field at offset 1 (R33). -/
theorem packetClassification : Obligations.PacketClassification := by
  intro c pkt
  have htag {tag : Byte} (hlen : 1 ≤ pkt.length) (h : byteAt pkt 0 = tag) : pkt.head? = some tag :=
    h ▸ head?_eq_byteAt hlen
  rw [← le16_toNat pkt 1]
  refine ⟨fun hlen => ?_, fun hpos h hlen => ?_, fun h hlen => ?_, fun hpos h hlen => ?_, fun h hlen hslot => ?_,
    fun h hlen hslot => ?_, fun hpos h1 h2 => ?_⟩
  · rw [List.length_eq_zero_iff.1 hlen, decode_of_discard classify_nil]
  · exact decode_of_discard (classify_shortGlobal (htag hpos h) hlen)
  · exact decode_of_tagGlobal c (htag (by omega) h) hlen
  · exact decode_of_discard (classify_shortGenerator (htag hpos h) hlen)
  · exact decode_of_discard (classify_badSlot (htag (by omega) h) hlen hslot)
  · exact decode_of_tagGenerator c (htag (by omega) h) hlen (decide_eq_true hslot)
  · exact decode_of_discard (classify_unknownTag (htag hpos rfl) h1 h2)

/-! ### Accepted packets -/

/-- All an accepted packet can be: long enough for its tag, and its operation reads the bytes of its layout. -/
theorem classify_ok {i : Instr} (h : classify c pkt = .ok i) :
    (byteAt pkt 0 = tagGlobal ∧ lenGlobal ≤ pkt.length ∧ i = .pktGlobal (readGlobal pkt)) ∨
    (byteAt pkt 0 = tagGenerator ∧ lenGenerator ≤ pkt.length ∧
      i = .pktGenerator (le16 pkt 1) (byteAt pkt 3) (readAssignment pkt)) := by
  cases pkt with
  | nil => cases h
  | cons tag rest =>
    rw [classify] at h
    split_ifs at h with htag hlen htag hlen
    · cases h
      exact .inl ⟨htag, hlen, rfl⟩
    · cases h
      exact .inr ⟨htag, Nat.not_lt.1 hlen, rfl⟩

/-- The first bytes of a packet, one offset at a time. -/
theorem map_byteAt_range {n : Nat} (h : n ≤ pkt.length) : (List.range n).map (byteAt pkt) = pkt.take n := by
  refine List.ext_getElem (by simpa using h) fun k hk _ => ?_
  have hk : k < pkt.length := by simp at hk; omega
  simp [byteAt, hk]

/-- Each byte of a global packet is carried by a field of its record (R41). -/
theorem encodeGlobal_readGlobal (htag : byteAt pkt 0 = tagGlobal) (hlen : lenGlobal ≤ pkt.length) :
    encodeGlobal (readGlobal pkt) = pkt.take lenGlobal := by
  rw [← map_byteAt_range hlen, encodeGlobal, ← htag]
  simp only [readGlobal, le32, le32Bytes_append]
  rfl

/-- Each byte of a generator packet is carried by its slot, its reset byte or its record (R42). -/
theorem encodeGenerator_read (htag : byteAt pkt 0 = tagGenerator) (hlen : lenGenerator ≤ pkt.length) :
    encodeGenerator (le16 pkt 1) (byteAt pkt 3) (readAssignment pkt) = pkt.take lenGenerator := by
  rw [← map_byteAt_range hlen, encodeGenerator, ← htag, le16, le16Bytes_append]
  rfl

theorem decode_wf (c : Cfg) (pkt : Packet) : (decode c pkt).wf c = true := by
  rcases decode_cases c pkt with h | ⟨r, h⟩ | ⟨i, rf, a, h, hi⟩ <;> rw [h]
  · rfl
  · rfl
  · exact hi

/-- Settles O2: encoding what an accepted packet decodes to gives its first 31 or 9 bytes. -/
theorem acceptedPacketStartsWithItsEncoding : Obligations.AcceptedPacketStartsWithItsEncoding := by
  refine fun c pkt => ⟨fun i h => ?_, decode_wf c pkt⟩
  rcases classify_ok h with ⟨htag, hlen, rfl⟩ | ⟨htag, hlen, rfl⟩
  · refine ⟨_, rfl, ?_, .inl (encodeGlobal_length _)⟩
    rw [encodeGlobal_readGlobal htag hlen]
    exact List.take_prefix _ _
  · refine ⟨_, rfl, ?_, .inr (encodeGenerator_length _ _ _)⟩
    rw [encodeGenerator_read htag hlen]
    exact List.take_prefix _ _

end Sys2Proof
end

section
/-! O6: the selector codes (spec/30_encoding.md R48, D17). -/

namespace Sys2Proof

/-- A waveform that has a code is selected by that byte alone. -/
theorem waveformOf_eq_iff {k : Waveform} {code : Byte} (hk : encodeSelector k = some code) (b : Byte) :
    waveformOf b = k ↔ b = code := by
  refine ⟨fun h => ?_, fun h => ?_⟩
  · unfold waveformOf at h
    split_ifs at h <;> subst h <;> cases hk <;> assumption
  · subst h
    cases k <;> cases hk <;> rfl

/-- No waveform is what every byte from 4 on selects. -/
theorem waveformOf_eq_silent_iff (b : Byte) : waveformOf b = .silent ↔ 4 ≤ b.toNat := by
  unfold waveformOf
  split_ifs with h0 h1 h2 h3
  · simp [h0]
  · simp [h1]
  · simp [h2]
  · simp [h3]
  · simp only [true_iff]
    bv_omega

/-- Settles O6: the four codes by evaluation, the other bytes by the range of the silent selector. -/
theorem instrumentSelectorCodes : Obligations.InstrumentSelectorCodes := by
  refine fun i => ⟨rfl, rfl, rfl, rfl, fun b hb => ?_⟩
  rw [decodeSelector, (waveformOf_eq_silent_iff b).2 hb]

end Sys2Proof
end

section
/-! O38: a step the voice does not select (spec/41_command_packets.md R54, spec/44_envelope.md R100; log 5). -/

namespace Sys2Proof.Machine

open Sys2Proof

variable {s : State} {i : Slot} {v : Voice}

/-! ### When an envelope step is selected -/

section
variable {en : Bool} {t : Nat} {e : Envelope}

theorem envState_eq_release_iff : envState en t e = .release ↔ en = false := by
  unfold envState
  split_ifs <;> simp_all

theorem envState_eq_attack_iff : envState en t e = .attack ↔ en = true ∧ t < e.attack := by
  unfold envState
  split_ifs <;> simp_all

theorem envState_eq_decay_iff :
    envState en t e = .decay ↔ en = true ∧ e.attack ≤ t ∧ t < e.attack + e.decay := by
  unfold envState
  split_ifs <;> simp_all

theorem envState_eq_sustain_iff : envState en t e = .sustain ↔ en = true ∧ e.attack + e.decay ≤ t := by
  unfold envState
  split_ifs <;> simp_all; omega

end

/-! ### What an unselected step does -/

/-- A step that leaves the voice in a slot and the working values as they are changes nothing. -/
theorem onSlot_fixed {f : Lane → Lane} (hv : s.v[i.toNat]? = some v) (hf : f ⟨v, s.work⟩ = ⟨v, s.work⟩) :
    s.onSlot i f = s := by
  refine onSlot_id f fun u hu => ?_
  obtain ⟨-, hu⟩ := voice?_some hu
  cases hu.symm.trans hv
  exact hf

theorem onSlot_waveStep_unselected {k : Waveform} (hv : s.v[i.toNat]? = some v) (hk : waveformOf v.assign.instrument ≠ k) :
    s.onSlot i (Lane.waveStep s.cfg k) = s :=
  onSlot_fixed hv (if_neg hk)

theorem exec_envInstr_unselected {k : EnvState} (hv : s.v[i.toNat]? = some v) (hk : v.envState s.cfg s.g ≠ k) :
    exec (envInstr k i) s = .next s := by
  exact (exec_envInstr s i k).trans (congrArg Host.Outcome.next (onSlot_fixed hv (if_neg hk)))

/-- Settles O38: the condition of each clause is that the byte, or the flag and the elapsed time, select another step. -/
theorem unselectedStepsDoNothing : Obligations.UnselectedStepsDoNothing := by
  intro s i v hv
  have hwave {k : Waveform} {code : Byte} (hk : encodeSelector k = some code) (hcode : v.assign.instrument ≠ code) :
      s.onSlot i (Lane.waveStep s.cfg k) = s :=
    onSlot_waveStep_unselected hv (mt (waveformOf_eq_iff hk _).1 hcode)
  have hdisabled (h : v.assign.enabled = 0) : isEnabled v.assign ≠ true := by simp [isEnabled_eq_true, h]
  refine ⟨fun h => ?_, fun h => ?_, fun h => ?_, fun h => ?_, fun h => ?_, fun h => ?_, fun h => ?_, fun h => ?_,
    fun h => ?_⟩
  · rw [exec_waveSquare, hwave rfl h]
  · rw [exec_waveTriangle, hwave rfl h]
  · rw [exec_waveSawtooth, hwave rfl h]
  · rw [exec_waveSine, hwave rfl h]
  · rw [exec_waveNone, onSlot_waveStep_unselected hv fun hk => by
      have := (waveformOf_eq_silent_iff _).1 hk
      omega]
  · refine exec_envInstr_unselected (k := .release) hv fun hk => h ?_
    exact (isEnabled_eq_false _).1 (envState_eq_release_iff.1 hk)
  · refine exec_envInstr_unselected (k := .attack) hv fun hk => ?_
    obtain ⟨hen, ht⟩ := envState_eq_attack_iff.1 hk
    exact h.elim (fun h0 => hdisabled h0 hen) (Nat.not_le.2 ht)
  · refine exec_envInstr_unselected (k := .decay) hv fun hk => ?_
    obtain ⟨hen, hattack, hdecay⟩ := envState_eq_decay_iff.1 hk
    rcases h with h0 | ht | ht
    · exact hdisabled h0 hen
    · exact Nat.not_le.2 ht hattack
    · exact Nat.not_le.2 hdecay ht
  · refine exec_envInstr_unselected (k := .sustain) hv fun hk => ?_
    obtain ⟨hen, ht⟩ := envState_eq_sustain_iff.1 hk
    exact h.elim (fun h0 => hdisabled h0 hen) (Nat.not_lt.2 ht)

end Sys2Proof.Machine
end

section
/-! O60: what an event does to the host, said once for every event, and that it keeps the host's pairs unique and sends only the host's
own records (spec/40_host_control_plane.md R55, R56, R68, R69). -/

namespace Sys2Proof.Machine

open Sys2Proof

variable {n : Nat} {h : ControlPlane}

/-! ### The host's procedures, an equation per case -/

/-- The record a note-off leaves in its slot (R59). -/
def releasedRecord (old : Assignment) (vel : Byte) : Assignment :=
  { old with enabled := 0, velocity := if vel = 0 then old.velocity else vel }

/-- The record a note-on puts in its slot (R60). -/
def newRecord (h : ControlPlane) (ch : BitVec 4) (note vel : Byte) : Assignment :=
  ⟨1, h.instrumentByte, note, ch.setWidth 8, vel⟩

section
variable {ch : BitVec 4} {note vel : Byte} {j : Nat}

theorem noteOff_unmatched (hm : findMatching n h note (ch.setWidth 8) = none) : noteOff n h ch note vel = (h, []) := by
  rw [noteOff, hm]

theorem noteOff_matched (hm : findMatching n h note (ch.setWidth 8) = some j) :
    noteOff n h ch note vel =
      (h.setEntry j (releasedRecord (h.entry j) vel), [genPacket j (releasedRecord (h.entry j) vel)]) := by
  rw [noteOff, hm]
  simp only [ne_eq, ite_not, releasedRecord]

theorem noteOn_zero : noteOn n h ch note 0 = noteOff n h ch note 0 := if_pos rfl

theorem noteOn_full (hvel : vel ≠ 0) (hv : findVacant n h = none) : noteOn n h ch note vel = (h, []) := by
  rw [noteOn, if_neg hvel, allocate, hv]

theorem noteOn_vacant (hvel : vel ≠ 0) (hv : findVacant n h = some j) :
    noteOn n h ch note vel =
      ({ h.setEntry j (newRecord h ch note vel) with cursor := (j + 1) % n }, [genPacket j (newRecord h ch note vel)]) := by
  rw [noteOn, if_neg hvel, allocate, hv]
  rfl

end

/-! ### The interpreter -/

/-- `r` writes the record `a` into slot `j` and sends it. -/
def WritesRecord (n : Nat) (h : ControlPlane) (r : HostResult) (j : Nat) (a : Assignment) : Prop :=
  j < n ∧ ∃ cur, r = ({ h.setEntry j a with cursor := cur }, [genPacket j a])

/-- `r` replaces the GlobalState and sends it. -/
def WritesGlobals (h : ControlPlane) (r : HostResult) : Prop :=
  ∃ g, r = ({ h with globals := g }, [encodeGlobal g])

theorem noteOff_cases (n : Nat) (h : ControlPlane) (ch : BitVec 4) (note vel : Byte) :
    noteOff n h ch note vel = (h, []) ∨
      ∃ j a, WritesRecord n h (noteOff n h ch note vel) j a ∧ a.enabled = 0 := by
  cases hm : findMatching n h note (ch.setWidth 8) with
  | none => exact .inl (noteOff_unmatched hm)
  | some j => exact .inr ⟨j, _, ⟨findMatching_lt hm, h.cursor, noteOff_matched hm⟩, rfl⟩

/-- All a message can do: nothing; disable a slot; as a note-on, give a slot its note; or, as a pitch-bend, change the GlobalState. -/
theorem midiMessage_cases (n : Nat) (h : ControlPlane) (msg : Packet) :
    midiMessage n h msg = (h, []) ∨
    (∃ j a, WritesRecord n h (midiMessage n h msg) j a ∧ a.enabled = 0) ∨
    (∃ j ch note vel, WritesRecord n h (midiMessage n h msg) j (newRecord h ch note vel) ∧
      parseMidi msg = .noteOn ch note vel ∧ vel ≠ 0) ∨
    WritesGlobals h (midiMessage n h msg) := by
  unfold midiMessage
  split
  · next ch note vel _ => exact (noteOff_cases n h ch note vel).imp_right .inl
  · next ch note vel hm =>
    by_cases hvel : vel = 0
    · subst hvel
      rw [noteOn_zero]
      exact (noteOff_cases n h ch note 0).imp_right .inl
    · cases hv : findVacant n h with
      | none => exact .inl (noteOn_full hvel hv)
      | some j => exact .inr (.inr (.inl ⟨j, ch, note, vel, ⟨findVacant_lt hv, _, noteOn_vacant hvel hv⟩, hm, hvel⟩))
  · exact .inr (.inr (.inr ⟨_, rfl⟩))
  · exact .inl rfl
  · exact .inl rfl

/-! ### What is sent -/

/-- The packets of `r` carry the host's GlobalState and records as they stand after the procedure (R69). -/
def SendsOwnRecords (n : Nat) (r : HostResult) : Prop :=
  ∀ p ∈ r.2, p = encodeGlobal r.1.globals ∨ ∃ j < n, p = genPacket j (r.1.entry j)

/-- What a conforming host sends of its own is conforming (R68). -/
theorem SendsOwnRecords.conforming {r : HostResult} (hr : SendsOwnRecords n r) (hc : r.1.Conforms n) :
    ∀ p ∈ r.2, ConformingPacket n p := by
  intro p hp
  rcases hr p hp with rfl | ⟨j, hj, rfl⟩
  · exact .inl ⟨_, rfl⟩
  · exact .inr ⟨j, _, hj, entry_conforms hc hj, rfl⟩

theorem sendsOwnRecords_nothing : SendsOwnRecords n (h, []) := fun _ hp => nomatch hp

theorem WritesGlobals.sendsOwnRecords {r : HostResult} (hr : WritesGlobals h r) : SendsOwnRecords n r := by
  obtain ⟨g, rfl⟩ := hr
  exact fun p hp => .inl (List.mem_singleton.1 hp)

theorem WritesRecord.sendsOwnRecords {r : HostResult} {j : Nat} {a : Assignment} (hlen : h.table.length = n)
    (hr : WritesRecord n h r j a) : SendsOwnRecords n r := by
  obtain ⟨hj, cur, rfl⟩ := hr
  intro p hp
  refine .inr ⟨j, hj, ?_⟩
  rw [List.mem_singleton.1 hp, ControlPlane.setEntry, entry_set (hlen ▸ hj), if_pos rfl]

theorem midiMessage_sendsOwnRecords (hlen : h.table.length = n) (msg : Packet) :
    SendsOwnRecords n (midiMessage n h msg) := by
  rcases midiMessage_cases n h msg with hr | ⟨j, a, hr, -⟩ | ⟨j, ch, note, vel, hr, -⟩ | hr
  · exact hr ▸ sendsOwnRecords_nothing
  · exact hr.sendsOwnRecords hlen
  · exact hr.sendsOwnRecords hlen
  · exact hr.sendsOwnRecords

/-- Every record of a fresh host is zero (R55, log 15). -/
theorem hostStart_entry (h : ControlPlane) (g : GlobalRecord) (sync : Bool) {j : Nat} (hj : j < n) :
    (hostStart n h g sync).1.entry j = zeroAssignment :=
  List.getD_replicate _ hj

theorem hostStart_sent (n : Nat) (h : ControlPlane) (g : GlobalRecord) :
    (hostStart n h g true).2 = encodeGlobal g :: (List.range n).map (genPacket · zeroAssignment) :=
  congrArg (encodeGlobal g :: ·) (syncPackets_fresh rfl)

theorem hostStart_sendsOwnRecords (h : ControlPlane) (g : GlobalRecord) (sync : Bool) :
    SendsOwnRecords n (hostStart n h g sync) := by
  intro p hp
  cases sync with
  | false => exact .inl (List.mem_singleton.1 hp)
  | true =>
    rw [hostStart_sent, List.mem_cons, List.mem_map] at hp
    rcases hp with rfl | ⟨j, hj, rfl⟩
    · exact .inl rfl
    · have hj := List.mem_range.1 hj
      exact .inr ⟨j, hj, by rw [hostStart_entry h g true hj]⟩

/-! ### Unique pairs -/

/-- Writing a record keeps the pairs unique if, when enabled, it brings a pair that no enabled slot holds (R56). -/
theorem WritesRecord.pairsUnique {r : HostResult} {j : Nat} {a : Assignment} (hlen : h.table.length = n)
    (hu : h.PairsUnique n) (hr : WritesRecord n h r j a)
    (ha : a.enabled ≠ 0 → findMatching n h a.noteIndex a.channelIndex = none) : r.1.PairsUnique n := by
  obtain ⟨hj, cur, rfl⟩ := hr
  have hnew {k : Nat} (hk : k < n) (hena : isEnabled a = true) (henk : isEnabled (h.entry k) = true) :
      ¬ ((h.entry k).noteIndex = a.noteIndex ∧ (h.entry k).channelIndex = a.channelIndex) := fun hpair =>
    findMatching_eq_none.1 (ha ((isEnabled_eq_true a).1 hena)) k hk ⟨(isEnabled_eq_true _).1 henk, hpair⟩
  intro k l hk hl
  simp only [ControlPlane.setEntry, entry_set (hlen ▸ hj)]
  split_ifs with hjk hjl hjl
  · exact fun _ _ _ _ => hjk.symm.trans hjl
  · exact fun hena henl hnote hchan => absurd ⟨hnote.symm, hchan.symm⟩ (hnew hl hena henl)
  · exact fun henk hena hnote hchan => absurd ⟨hnote, hchan⟩ (hnew hk hena henk)
  · exact hu k l hk hl

theorem WritesGlobals.pairsUnique {r : HostResult} (hu : h.PairsUnique n) (hr : WritesGlobals h r) :
    r.1.PairsUnique n := by
  obtain ⟨g, rfl⟩ := hr
  exact hu

theorem midiMessage_pairsUnique (hlen : h.table.length = n) (hu : h.PairsUnique n) {msg : Packet}
    (hnew : (Event.midi msg).BringsNewPair n h) : (midiMessage n h msg).1.PairsUnique n := by
  rcases midiMessage_cases n h msg with hr | ⟨j, a, hr, hoff⟩ | ⟨j, ch, note, vel, hr, hm, hvel⟩ | hr
  · rw [hr]
    exact hu
  · exact hr.pairsUnique hlen hu fun hon => absurd hoff hon
  · exact hr.pairsUnique hlen hu fun _ => hnew msg ch note vel rfl hm hvel
  · exact hr.pairsUnique hu

/-- A fresh host has no enabled slot (R55). -/
theorem hostStart_pairsUnique (h : ControlPlane) (g : GlobalRecord) (sync : Bool) :
    (hostStart n h g sync).1.PairsUnique n := by
  intro j k hj _ hon
  rw [hostStart_entry h g sync hj] at hon
  exact absurd hon (by decide)

/-! ### Events and steps -/

/-- What an event asks of the host; an event of the block asks nothing. -/
def eventResult (n : Nat) (h : ControlPlane) : Event → HostResult
  | .midi msg => midiMessage n h msg
  | .hostStart g sync => hostStart n h g sync
  | .hostSet vol env => hostSet h vol env
  | .reset | .tick | .cmd _ | .deliver => (h, [])

theorem eventResult_conforms (hn : 1 ≤ n) (hc : h.Conforms n) (e : Event) : (eventResult n h e).1.Conforms n := by
  cases e with
  | midi msg => exact midiMessage_conforms hc msg
  | hostStart g sync => exact hostStart_conforms hn h g sync
  | hostSet vol env => exact hostSet_conforms hc vol env
  | reset | tick | cmd _ | deliver => exact hc

theorem eventResult_sendsOwnRecords (hlen : h.table.length = n) (e : Event) : SendsOwnRecords n (eventResult n h e) := by
  cases e with
  | midi msg => exact midiMessage_sendsOwnRecords hlen msg
  | hostStart g sync => exact hostStart_sendsOwnRecords h g sync
  | hostSet vol env => exact WritesGlobals.sendsOwnRecords (h := h) ⟨_, rfl⟩
  | reset | tick | cmd _ | deliver => exact sendsOwnRecords_nothing

theorem eventResult_pairsUnique (hlen : h.table.length = n) (hu : h.PairsUnique n) {e : Event}
    (hnew : e.BringsNewPair n h) : (eventResult n h e).1.PairsUnique n := by
  cases e with
  | midi msg => exact midiMessage_pairsUnique hlen hu hnew
  | hostStart g sync => exact hostStart_pairsUnique h g sync
  | hostSet vol env => exact WritesGlobals.pairsUnique (h := h) hu ⟨_, rfl⟩
  | reset | tick | cmd _ | deliver => exact hu

section
variable {s t : State}

/-- Taking an event does to the host what the event asks, and puts on the link no packet but those it asks for. -/
theorem takeEvent_host (e : Event) (s : State) :
    (takeEvent e s).2.control = (eventResult s.cfg.nGenerators s.control e).1 ∧
    (takeEvent e s).2.link ⊆ s.link ++ (eventResult s.cfg.nGenerators s.control e).2 := by
  cases e with
  | midi _ | hostStart _ _ | hostSet _ _ => exact ⟨rfl, List.Subset.refl _⟩
  | reset | tick | cmd _ => exact ⟨rfl, List.subset_append_left _ _⟩
  | deliver =>
    simp only [takeEvent, eventResult, List.append_nil]
    cases hl : s.link with
    | nil => simp [deliverNext_nil hl, hl]
    | cons p ps => simp [deliverNext_cons hl]

/-- An operation an event selects leaves the host alone and puts nothing on the link (R124). -/
theorem exec_selected_host {i : Instr} (hi : selectedByEvent i = true) (ht : exec i s = .next t) :
    t.control = s.control ∧ t.link ⊆ s.link := by
  cases i with
  | reset =>
    cases ht
    exact ⟨rfl, List.nil_subset _⟩
  | tick =>
    rw [exec_tick] at ht
    cases ht
    exact ⟨rfl, List.Subset.refl _⟩
  | pktGlobal r =>
    cases ht
    exact ⟨rfl, List.Subset.refl _⟩
  | pktGenerator j rf a =>
    cases ht
    exact ⟨modifyVoice_control j _, by simp⟩
  | pktIgnored =>
    cases ht
    exact ⟨rfl, List.Subset.refl _⟩
  | _ => cases hi

theorem step_next_valid (ht : step s = .next t) : s.cfg.valid = true := by
  by_contra hc
  rw [step, if_neg hc] at ht
  cases ht

/-- A step does to the host and the link at most what taking its event does. -/
theorem step_host_takeNext (ht : step s = .next t) :
    t.control = (takeNext s).2.control ∧ t.link ⊆ (takeNext s).2.link := by
  rw [step_valid (step_next_valid ht)] at ht
  rcases takeNext_cases s with ⟨i, u, htake, hi, -⟩ | ⟨u, htake, -⟩ <;> rw [htake] at ht ⊢
  · exact exec_selected_host hi ht
  · cases ht
    exact ⟨rfl, List.Subset.refl _⟩

/-- All a step can do to the host and the link: nothing but take packets from the link, or what its event asks. -/
theorem step_host_cases (ht : step s = .next t) :
    (t.control = s.control ∧ t.link ⊆ s.link) ∨
    ∃ e ∈ s.inputs.head?, t.control = (eventResult s.cfg.nGenerators s.control e).1 ∧
      t.link ⊆ s.link ++ (eventResult s.cfg.nGenerators s.control e).2 := by
  obtain ⟨hcontrol, hlink⟩ := step_host_takeNext ht
  unfold takeNext at hcontrol hlink
  split at hcontrol
  · next he =>
    rw [he] at hlink
    exact .inl ⟨hcontrol, hlink⟩
  · next e es he =>
    rw [he] at hlink
    obtain ⟨hcontrol', hlink'⟩ := takeEvent_host e (s.setInputs es)
    exact .inr ⟨e, by rw [he]; rfl, hcontrol.trans hcontrol', List.Subset.trans hlink hlink'⟩

end

/-- Settles O60: a step leaves the host alone or does what its event asks, and each event keeps the records in their ranges, sends the
host's own records and enables no pair that is enabled already. -/
theorem hostStaysConforming : Obligations.HostStaysConforming := by
  intro s t hc ht
  have hn : 1 ≤ s.cfg.nGenerators := (valid_sizes (step_next_valid ht)).1
  have ⟨hlen, _⟩ := hc
  rcases step_host_cases ht with ⟨hcontrol, hlink⟩ | ⟨e, he, hcontrol, hlink⟩ <;> rw [hcontrol]
  · exact ⟨hc, fun hp p hmem => hp p (hlink hmem), fun hu _ => hu⟩
  · have hc' := eventResult_conforms hn hc e
    refine ⟨hc', fun hp p hmem => ?_, fun hu hnew => eventResult_pairsUnique hlen hu (hnew e he)⟩
    rcases List.mem_append.1 (hlink hmem) with hold | hsent
    · exact hp p hold
    · exact (eventResult_sendsOwnRecords hlen e).conforming hc' p hsent

end Sys2Proof.Machine
end

section
/-! O51 to O55: what a message of each kind does (spec/40_host_control_plane.md R57 to R63, R69). -/

namespace Sys2Proof.Machine

open Sys2Proof

variable {n : Nat} {h : ControlPlane} {msg : Packet}

/-! ### Validation -/

theorem byte_msb_eq_false_iff (b : Byte) : b.msb = false ↔ b.toNat < 128 := by
  rw [BitVec.msb_eq_false_iff_two_mul_lt]
  omega

theorem midiBytesOk_iff : midiBytesOk msg = true ↔ msg ≠ [] ∧ ∀ b ∈ msg.tail, b.toNat < 128 := by
  cases msg with
  | nil => simp [midiBytesOk]
  | cons st data => simp [midiBytesOk, byte_msb_eq_false_iff]

/-- A message of another length than three bytes is discarded, whatever its type (log 14). -/
theorem parseMidi_of_length_ne (hlen : msg.length ≠ 3) : parseMidi msg = .malformed ∨ parseMidi msg = .ignored := by
  unfold parseMidi
  split_ifs
  · exact .inl rfl
  · exact .inl rfl
  · exact .inr rfl

/-- An accepted message: its type says what it asks. -/
theorem parseMidi_accepted (hok : midiBytesOk msg = true) (hlen : msg.length = 3) (hch : midiChannel msg ≠ 9)
    (ht : midiType msg = 8 ∨ midiType msg = 9 ∨ midiType msg = 0xE) :
    parseMidi msg =
      if midiType msg = 8 then .noteOff (midiChannel msg) (byteAt msg 1) (byteAt msg 2)
      else if midiType msg = 9 then .noteOn (midiChannel msg) (byteAt msg 1) (byteAt msg 2)
      else .pitchBend (midiChannel msg) (byteAt msg 1) (byteAt msg 2) := by
  rw [parseMidi, if_neg (by simp [hok]), if_pos ht, if_neg (not_not.2 hlen), if_neg hch]

section
variable {st d1 d2 : Byte} (hch : st.extractLsb' 0 4 ≠ 9) (h1 : d1.toNat < 128) (h2 : d2.toNat < 128)
include hch h1 h2

theorem parseMidi_threeBytes (ht : st.extractLsb' 4 4 = 8 ∨ st.extractLsb' 4 4 = 9 ∨ st.extractLsb' 4 4 = 0xE) :
    parseMidi [st, d1, d2] =
      if st.extractLsb' 4 4 = 8 then .noteOff (st.extractLsb' 0 4) d1 d2
      else if st.extractLsb' 4 4 = 9 then .noteOn (st.extractLsb' 0 4) d1 d2
      else .pitchBend (st.extractLsb' 0 4) d1 d2 := by
  have hok : midiBytesOk [st, d1, d2] = true := midiBytesOk_iff.2 (by simp [h1, h2])
  exact parseMidi_accepted hok rfl hch ht

theorem parseMidi_noteOff (ht : st.extractLsb' 4 4 = 8) :
    parseMidi [st, d1, d2] = .noteOff (st.extractLsb' 0 4) d1 d2 := by
  rw [parseMidi_threeBytes hch h1 h2 (.inl ht), if_pos ht]

theorem parseMidi_noteOn (ht : st.extractLsb' 4 4 = 9) :
    parseMidi [st, d1, d2] = .noteOn (st.extractLsb' 0 4) d1 d2 := by
  rw [parseMidi_threeBytes hch h1 h2 (.inr (.inl ht)), if_neg (by rw [ht]; decide), if_pos ht]

theorem parseMidi_pitchBend (ht : st.extractLsb' 4 4 = 0xE) :
    parseMidi [st, d1, d2] = .pitchBend (st.extractLsb' 0 4) d1 d2 := by
  rw [parseMidi_threeBytes hch h1 h2 (.inr (.inr ht)), if_neg (by rw [ht]; decide), if_neg (by rw [ht]; decide)]

end

/-! ### The interpreter's cases -/

theorem midiMessage_discarded (hm : parseMidi msg = .malformed ∨ parseMidi msg = .ignored) :
    midiMessage n h msg = (h, []) := by
  rcases hm with hm | hm <;> rw [midiMessage, hm]

section
variable {ch : BitVec 4} {d1 d2 : Byte}

theorem midiMessage_of_noteOff (hm : parseMidi msg = .noteOff ch d1 d2) : midiMessage n h msg = noteOff n h ch d1 d2 := by
  rw [midiMessage, hm]

theorem midiMessage_of_noteOn (hm : parseMidi msg = .noteOn ch d1 d2) : midiMessage n h msg = noteOn n h ch d1 d2 := by
  rw [midiMessage, hm]

theorem midiMessage_of_pitchBend (hm : parseMidi msg = .pitchBend ch d1 d2) : midiMessage n h msg = pitchBend h ch d1 d2 := by
  rw [midiMessage, hm]

end

/-- A message of type 0x8 of any bytes: discarded, or a note-off. -/
theorem midiMessage_of_type8 (ht : midiType msg = 8) :
    midiMessage n h msg = (h, []) ∨
      midiMessage n h msg = noteOff n h (midiChannel msg) (byteAt msg 1) (byteAt msg 2) := by
  rcases parseMidi_cases msg with hd | ⟨-, -, ⟨-, hm⟩ | ⟨ht', -⟩ | ⟨ht', -⟩⟩
  · exact .inl (midiMessage_discarded hd)
  · exact .inr (midiMessage_of_noteOff hm)
  · exact absurd (ht.symm.trans ht') (by decide)
  · exact absurd (ht.symm.trans ht') (by decide)

/-- A message of type 0x9 of any bytes: discarded, or a note-on. -/
theorem midiMessage_of_type9 (ht : midiType msg = 9) :
    midiMessage n h msg = (h, []) ∨
      midiMessage n h msg = noteOn n h (midiChannel msg) (byteAt msg 1) (byteAt msg 2) := by
  rcases parseMidi_cases msg with hd | ⟨-, -, ⟨ht', -⟩ | ⟨-, hm⟩ | ⟨ht', -⟩⟩
  · exact .inl (midiMessage_discarded hd)
  · exact absurd (ht.symm.trans ht') (by decide)
  · exact .inr (midiMessage_of_noteOn hm)
  · exact absurd (ht.symm.trans ht') (by decide)

/-! ### The rules -/

theorem entry_of_getElem? {j : Nat} {a : Assignment} (ha : h.table[j]? = some a) : h.entry j = a := by
  rw [ControlPlane.entry, List.getD_eq_getElem?_getD, ha, Option.getD_some]

/-- Settles O51: `find_matching` finds the first slot that is enabled with the pair, or none. -/
theorem noteOffRule : Obligations.NoteOffRule := by
  rintro n h st note vel _ ht hch hnote hvel rfl
  rw [midiMessage_of_noteOff (parseMidi_noteOff hch hnote hvel ht)]
  refine ⟨fun hno => noteOff_unmatched (findMatching_eq_none.2 hno), ?_⟩
  rintro j a hj ha hon hn hc hfirst
  obtain rfl := entry_of_getElem? ha
  exact noteOff_matched (findMatching_eq_some hj ⟨hon, hn, hc⟩ hfirst)

/-- The note-off status byte of the same channel. -/
theorem noteOffStatus_type (st : Byte) : (0x80#8 ||| (st &&& 0x0F#8)).extractLsb' 4 4 = 8 := by
  simp [BitVec.extractLsb'_or, BitVec.extractLsb'_and]

theorem noteOffStatus_channel (st : Byte) : (0x80#8 ||| (st &&& 0x0F#8)).extractLsb' 0 4 = st.extractLsb' 0 4 := by
  rw [BitVec.extractLsb'_or, BitVec.extractLsb'_and]
  change 0#4 ||| (st.extractLsb' 0 4 &&& BitVec.allOnes 4) = st.extractLsb' 0 4
  rw [BitVec.and_allOnes, BitVec.zero_or]

/-- Settles O52: the three cases of a note-on. -/
theorem noteOnRule : Obligations.NoteOnRule := by
  intro n h st note vel ht hch hnote hvel
  rw [midiMessage_of_noteOn (parseMidi_noteOn hch hnote hvel ht)]
  refine ⟨?_, fun hv hfull => noteOn_full hv hfull, fun j hv hj => noteOn_vacant hv hj⟩
  rintro rfl
  have hoff := parseMidi_noteOff (by rwa [noteOffStatus_channel]) hnote hvel (noteOffStatus_type st)
  rw [noteOn_zero, midiMessage_of_noteOff hoff, noteOffStatus_channel]

/-- The rescaled bend of two seven-bit bytes fits its byte (R61). -/
theorem rescaleBend_toInt {d1 d2 : Byte} (h1 : d1.toNat < 128) (h2 : d2.toNat < 128) :
    (rescaleBend d1 d2).toInt = ((d1.toNat : Int) + 128 * d2.toNat - 8192) / 64 := by
  rw [rescaleBend, BitVec.toInt_ofInt_eq_self (by decide) (by omega) (by omega), Nat.cast_add, Nat.cast_mul, Nat.cast_ofNat]

/-- Settles O53: the bend written is the rescaled one, which is 0 at the centre. -/
theorem pitchBendRule : Obligations.PitchBendRule := by
  intro n h st d1 d2 ht hch h1 h2
  refine ⟨rescaleBend d1 d2, _, midiMessage_of_pitchBend (parseMidi_pitchBend hch h1 h2 ht), rfl, rescaleBend_toInt h1 h2, ?_⟩
  rintro rfl rfl
  rfl

/-- Settles O54: a message of three bytes that is accepted is of none of the other classes. -/
theorem discardedMessages : Obligations.DiscardedMessages := by
  intro n h msg hclass
  rcases parseMidi_cases msg with hd | ⟨hok, hch, htype⟩
  · exact midiMessage_discarded hd
  · obtain ⟨hne, hdata⟩ := midiBytesOk_iff.1 hok
    rcases hclass with hnil | ⟨b, hb, hhigh⟩ | ⟨h8, h9, hE⟩ | hlen | hch9
    · exact absurd hnil hne
    · exact absurd hhigh (Nat.not_le.2 (hdata b hb))
    · rcases htype with ⟨ht, -⟩ | ⟨ht, -⟩ | ⟨ht, -⟩
      · exact absurd ht h8
      · exact absurd ht h9
      · exact absurd ht hE
    · exact midiMessage_discarded (parseMidi_of_length_ne hlen)
    · exact absurd hch9 hch

end Sys2Proof.Machine
end

section
/-! O55, O56, O57: the scan for a vacant slot and the allocation (spec/40_host_control_plane.md R60, R63, R64, R66). -/

namespace Sys2Proof.Machine

open Sys2Proof

variable {n : Nat} {h : ControlPlane}

/-! ### The scan -/

/-- The scan looks for the first offset from the cursor at which the slot is disabled. -/
theorem findVacant_eq_map (n : Nat) (h : ControlPlane) :
    findVacant n h =
      ((List.range n).find? fun k => !isEnabled (h.entry ((h.cursor + k) % n))).map fun k => (h.cursor + k) % n :=
  List.find?_map

theorem findVacant_eq_none : findVacant n h = none ↔ ∀ k < n, (h.entry ((h.cursor + k) % n)).enabled ≠ 0 := by
  simp only [findVacant_eq_map, Option.map_eq_none_iff, List.find?_range_eq_none, Bool.not_not, isEnabled_eq_true]

theorem findVacant_eq_some {j : Nat} :
    findVacant n h = some j ↔
      ∃ k < n, j = (h.cursor + k) % n ∧ (h.entry j).enabled = 0 ∧
        ∀ k' < k, (h.entry ((h.cursor + k') % n)).enabled ≠ 0 := by
  simp only [findVacant_eq_map, Option.map_eq_some_iff, List.find?_range_eq_some, List.mem_range, Bool.not_not,
    Bool.not_eq_true', isEnabled_eq_true, isEnabled_eq_false]
  constructor
  · rintro ⟨k, ⟨hoff, hk, hfirst⟩, rfl⟩
    exact ⟨k, hk, rfl, hoff, hfirst⟩
  · rintro ⟨k, hk, rfl, hoff, hfirst⟩
    exact ⟨k, ⟨hoff, hk, hfirst⟩, rfl⟩

/-- The scan runs to the last slot and goes on from slot 0. -/
theorem scan_eq {c k : Nat} (hc : c < n) (hk : k < n) : (c + k) % n = if c + k < n then c + k else c + k - n := by
  split
  · next hlt => exact Nat.mod_eq_of_lt hlt
  · next hge => rw [Nat.mod_eq_sub_mod (by omega), Nat.mod_eq_of_lt (by omega)]

theorem exists_scan_offset {c j : Nat} (hc : c < n) (hj : j < n) : ∃ k < n, (c + k) % n = j := by
  by_cases hcj : c ≤ j
  · exact ⟨j - c, by omega, by rw [scan_eq hc (by omega)]; split <;> omega⟩
  · exact ⟨j + n - c, by omega, by rw [scan_eq hc (by omega)]; split <;> omega⟩

/-- The scan passes every record of the table. -/
theorem forall_scan_iff_forall_table (hcur : h.cursor < n) (hlen : h.table.length = n) {P : Assignment → Prop} :
    (∀ k < n, P (h.entry ((h.cursor + k) % n))) ↔ ∀ a ∈ h.table, P a := by
  constructor
  · intro hscan a ha
    obtain ⟨j, hj⟩ := List.mem_iff_getElem?.1 ha
    have hjn : j < n := hlen ▸ (List.getElem?_eq_some_iff.1 hj).1
    obtain ⟨k, hk, rfl⟩ := exists_scan_offset hcur hjn
    rw [← entry_of_getElem? hj]
    exact hscan k hk
  · intro htable k hk
    have hj : (h.cursor + k) % n < h.table.length := hlen ▸ Nat.mod_lt _ (by omega)
    have hget := List.getElem?_eq_getElem hj
    rw [entry_of_getElem? hget]
    exact htable _ (List.getElem_mem hj)

theorem findVacant_eq_none_iff_table (hcur : h.cursor < n) (hlen : h.table.length = n) :
    findVacant n h = none ↔ ∀ a ∈ h.table, a.enabled ≠ 0 :=
  findVacant_eq_none.trans (forall_scan_iff_forall_table hcur hlen (P := (·.enabled ≠ 0)))

/-- A scan that starts one past slot `j` comes to `j` last (R66). -/
theorem others_enabled_of_scan_past {j : Nat} (hcur : h.cursor = (j + 1) % n) (hj : findVacant n h = some j) {k : Nat}
    (hk : k < n) (hkj : k ≠ j) : (h.entry k).enabled ≠ 0 := by
  have hjn := findVacant_lt hj
  have hnext : h.cursor = if j + 1 < n then j + 1 else 0 := by
    rw [hcur]
    split
    · next hlt => exact Nat.mod_eq_of_lt hlt
    · rw [show j + 1 = n by omega, Nat.mod_self]
  have hcn : h.cursor < n := by rw [hcur]; exact Nat.mod_lt _ (by omega)
  obtain ⟨m, hm, hmj, -, hfirst⟩ := findVacant_eq_some.1 hj
  obtain ⟨m', hm', rfl⟩ := exists_scan_offset hcn hk
  refine hfirst m' ?_
  rw [scan_eq hcn hm] at hmj
  rw [scan_eq hcn hm'] at hkj
  split_ifs at hnext hmj hkj <;> omega

/-! ### The rules -/

/-- Settles O56, from what the scan gives and the two cases of the allocation. -/
theorem findVacantScansFromTheCursor : Obligations.FindVacantScansFromTheCursor := by
  refine fun n h hcur hlen => ⟨findVacant_eq_none_iff_table hcur hlen, fun _ => findVacant_eq_some, ?_⟩
  exact fun ch note vel hvel => ⟨fun j hj => by rw [noteOn_vacant hvel hj], fun hfull => by rw [noteOn_full hvel hfull]⟩

/-- Settles O57: with a slot free the scan finds one, and the next scan comes to it last. -/
theorem allocationProperties : Obligations.AllocationProperties := by
  intro n h ch note vel hcur hlen hvel
  refine ⟨?_, fun hfull => noteOn_full hvel ((findVacant_eq_none_iff_table hcur hlen).2 hfull)⟩
  rintro ⟨a, ha, hfree⟩
  cases hv : findVacant n h with
  | none => exact absurd hfree ((findVacant_eq_none_iff_table hcur hlen).1 hv a ha)
  | some j =>
    obtain ⟨-, -, -, hoff, -⟩ := findVacant_eq_some.1 hv
    have hget := List.getElem?_eq_getElem (hlen ▸ findVacant_lt hv : j < h.table.length)
    rw [entry_of_getElem? hget] at hoff
    rw [noteOn_vacant hvel hv]
    refine ⟨j, _, _, hget, hoff, rfl, rfl, ?_⟩
    rintro h' _ hcur' - hv' rfl k hk hkj
    exact others_enabled_of_scan_past hcur' hv' hk hkj

/-- Settles O55: what a message can do has one packet in each case but the first; the last two clauses are the note-off without a match
and the note-on without a free slot. -/
theorem onePacketPerStateChange : Obligations.OnePacketPerStateChange := by
  intro n h msg
  refine ⟨?_, fun hclass => ?_, fun htype hno => ?_, fun ht hvel hfull => ?_⟩
  · rcases midiMessage_cases n h msg with hr | ⟨_, _, ⟨-, _, hr⟩, -⟩ | ⟨_, _, _, _, ⟨-, _, hr⟩, -⟩ | ⟨_, hr⟩
    · exact .inl hr
    · exact .inr ⟨_, _, hr⟩
    · exact .inr ⟨_, _, hr⟩
    · exact .inr ⟨_, _, hr⟩
  · rw [discardedMessages n h msg (hclass.imp_right (.imp_right or_rotate.2))]
  · have hoff (vel : Byte) : noteOff n h (midiChannel msg) (byteAt msg 1) vel = (h, []) :=
      noteOff_unmatched (findMatching_eq_none.2 hno)
    rcases htype with ht | ⟨ht, hvel⟩
    · rcases midiMessage_of_type8 (n := n) (h := h) ht with hr | hr
      · rw [hr]
      · rw [hr, hoff]
    · rcases midiMessage_of_type9 (n := n) (h := h) ht with hr | hr
      · rw [hr]
      · rw [hr, hvel, noteOn_zero, hoff]
  · rcases midiMessage_of_type9 (n := n) (h := h) ht with hr | hr
    · rw [hr]
    · rw [hr, noteOn_full hvel (findVacant_eq_none.2 hfull)]

end Sys2Proof.Machine
end

section
/-! O50: the host's events as steps (spec/40_host_control_plane.md R57, R67, spec/70_reset_and_hazards.md R137). -/

namespace Sys2Proof.Machine

open Sys2Proof

variable {s : State} {e : Event} {es : List Event}

/-- An event that selects no operation completes with the state it leaves. -/
theorem step_of_host {t : State} (hc : s.cfg.valid = true) (he : s.inputs = e :: es)
    (htake : takeEvent e (s.setInputs es) = (none, t)) : step s = .next t := by
  rw [step_cons hc he, htake]

/-- Settles O50: each host event gives the host and the link what its procedure answers; the synchronising packets of a fresh host carry
zero records. -/
theorem hostEventsActThroughTheLink : Obligations.HostEventsActThroughTheLink := by
  refine fun s es hc => ⟨fun msg he => step_of_host hc he rfl, fun r he => step_of_host hc he rfl, fun r he => ?_,
    fun vol env he => step_of_host hc he rfl⟩
  refine step_of_host hc he ?_
  have hsent := hostStart_sent s.cfg.nGenerators s.control r
  simp only [takeEvent, State.hostDoes, State.setInputs_cfg, State.setInputs_control, hsent]
  rfl

end Sys2Proof.Machine
end

section
/-! O7, O8, O9, O10: what a received packet does to the block (spec/41_command_packets.md R70 to R75). -/

namespace Sys2Proof.Machine

open Sys2Proof

/-! ### Global packets -/

/-- Settles O7: storing a record reduces its four envelope fields to the widths of their registers and copies the others. -/
theorem globalRecordOverwritesG : Obligations.GlobalRecordOverwritesG := exec_pktGlobal

/-- A register at least as wide as its field stores the field as transmitted (R17). -/
theorem truncU_toNat_of_le {m n : Nat} (x : BitVec m) (h : m ≤ n) : truncU n x.toNat = x.toNat :=
  truncU_of_lt (x.isLt.trans_le (Nat.pow_le_pow_right Nat.two_pos h))

theorem storeGlobal_env_of_wide {c : Cfg} (hdur : 32 ≤ c.durW) (hlevel : 8 ≤ c.levelW) (r : GlobalRecord) :
    (storeGlobal c r).env =
      { attack := r.env.attack.toNat, decay := r.env.decay.toNat, sustain := r.env.sustain.toNat,
        release := r.env.release.toNat } := by
  simp only [storeGlobal, truncU_toNat_of_le _ hdur, truncU_toNat_of_le _ hlevel]

/-- The bends are the sixteen bytes from offset 15 on (R41). -/
theorem readGlobal_pitchBend (pkt : Packet) (ch : Fin 16) : (readGlobal pkt).pitchBend[ch] = byteAt pkt (15 + ch) := by
  have hbend : (readGlobal pkt).pitchBend = Vector.ofFn fun k : Fin 16 => byteAt pkt (15 + k) := rfl
  rw [hbend, Fin.getElem_fin, Vector.getElem_ofFn]

/-- A byte read as two's complement (R18). -/
theorem byte_toInt (b : Byte) : b.toInt = if b.toNat < 128 then (b.toNat : Int) else (b.toNat : Int) - 256 := by
  rw [BitVec.toInt_eq_toNat_cond]
  split <;> split <;> omega

theorem bendAt_storeGlobal_readGlobal (c : Cfg) (pkt : Packet) (ch : Fin 16) :
    bendAt (storeGlobal c (readGlobal pkt)) ch = (byteAt pkt (15 + ch)).toInt :=
  congrArg BitVec.toInt (readGlobal_pitchBend pkt ch)

/-- Settles O8: the packet decodes to its record (R51), registers that hold the fields store them as they are, and the fields are read
at their offsets. -/
theorem globalPacketSetsEveryField : Obligations.GlobalPacketSetsEveryField := by
  intro s pkt htag hlen hdur hlevel
  obtain ⟨-, -, hdecode, -⟩ := packetClassification s.cfg pkt
  obtain ⟨-, hattack, hdecay, hrelease⟩ := fieldsAreLittleEndian pkt
  have henv := storeGlobal_env_of_wide hdur hlevel (readGlobal pkt)
  refine ⟨storeGlobal s.cfg (readGlobal pkt), ?_, rfl, ?_, ?_, ?_, ?_, fun ch => ?_⟩
  · rw [hdecode htag hlen, exec_pktGlobal, State.setG]
  · rw [henv, hattack]
  · rw [henv, hdecay]
  · rw [henv, readGlobal]
  · rw [henv, hrelease]
  · rw [bendAt_storeGlobal_readGlobal, byte_toInt]

/-! ### Generator packets -/

/-- The private registers: `life` and `phase` fall to zero under a set reset flag, `latched` never changes (R72, R74). -/
theorem assignVoice_eq (rf : Byte) (a : Assignment) (v : Voice) :
    assignVoice rf a v =
      { assign := a
        life := if rf = 0 then v.life else 0
        phase := if rf = 0 then v.phase else 0
        latched := v.latched } := by
  by_cases hrf : rf = 0
  · rw [if_pos hrf, if_pos hrf, hrf]
    rfl
  · have hset : flagSet rf = true := bne_iff_ne.2 hrf
    rw [if_neg hrf, if_neg hrf, assignVoice, if_pos hset]

/-- Settles O9: the operation rewrites the voice of a slot that exists, and a packet that addresses the slot decodes to it (R51). -/
theorem generatorPacketWritesOneSlot : Obligations.GeneratorPacketWritesOneSlot := by
  refine fun s i v hi hv => ⟨fun rf a => ?_, fun pkt htag hlen haddr => ?_⟩
  · rw [exec_pktGenerator, modifyVoice_some _ (voice?_eq_some hi hv), assignVoice_eq, State.setV]
  · obtain ⟨-, -, -, -, -, hdecode, -⟩ := packetClassification s.cfg pkt
    have hslot : le16 pkt 1 = i := BitVec.eq_of_toNat_eq (by rw [le16_toNat, haddr])
    rw [hdecode htag hlen (haddr ▸ slotValid_iff.1 hi), hslot, readAssignment]

/-! ### Ignored packets -/

/-- Settles O10: a packet of each of the five classes decodes to PKT_IGNORED (R51), which leaves the state alone; an empty packet and a
short one that addresses no slot fall in an earlier class of R51. -/
theorem ignoredPacketsChangeNothing : Obligations.IgnoredPacketsChangeNothing := by
  refine fun s => ⟨exec_pktIgnored s, fun pkt hclass => ?_⟩
  obtain ⟨hempty, hshortGlobal, -, hshortGenerator, hbadSlot, -, hunknown⟩ := packetClassification s.cfg pkt
  suffices hignored : decode s.cfg pkt = .pktIgnored by rw [hignored, exec_pktIgnored]
  rcases Nat.eq_zero_or_pos pkt.length with hlen | hpos
  · exact hempty hlen
  rcases hclass with hlen | ⟨h1, h2⟩ | ⟨htag, hlen⟩ | ⟨htag, hlen⟩ | ⟨htag, hslot⟩
  · exact hempty hlen
  · exact hunknown hpos h1 h2
  · exact hshortGlobal hpos htag hlen
  · exact hshortGenerator hpos htag hlen
  · rcases Nat.lt_or_ge pkt.length 9 with hlen | hlen
    · exact hshortGenerator hpos htag hlen
    · exact hbadSlot htag hlen hslot

end Sys2Proof.Machine
end

section
/-! O12, O13: from note to wavelength (spec/42_frequency_and_phase.md R77 to R82). -/

namespace Sys2Proof.Machine

open Sys2Proof

/-- The zero-bend factor is `2^BEND_SHIFT` (R8 item 4), which the shift takes away again. -/
theorem bendFrequency_zero {c : Cfg} (h : c.bendLinearOffset = 2 ^ c.bendShift) (f : Nat) : bendFrequency c f 0 = f := by
  have hfactor : bendFactor c 0 = (2 ^ c.bendShift : Nat) := by rw [bendFactor, Int.zero_mul, Int.zero_add, h]
  have hpos : ((2 ^ c.bendShift : Nat) : Int) ≠ 0 := by exact_mod_cast (Nat.two_pow_pos c.bendShift).ne'
  rw [bendFrequency, hfactor, Int.mul_ediv_cancel _ hpos, Int.toNat_natCast]

/-- Settles O13, by the zero-bend factor above. -/
theorem zeroBendIsIdentity : Obligations.ZeroBendIsIdentity := fun _ f h => bendFrequency_zero h f

/-- The channel of an assignment is the one that its low four bits number (R49). -/
theorem channelOf_eq {a : Assignment} {ch : Fin 16} (h : ch.val = a.channelIndex.toNat % 16) : channelOf a = ch :=
  Fin.ext ((channelOf_val a).trans h.symm)

theorem wavelengthOf_eq (c : Cfg) (f : Nat) :
    wavelengthOf c f = if f = 0 then 0 else c.sampleRate * 2 ^ c.freqShift * c.lifeScale / f := by
  rw [wavelengthOf, Nat.shiftLeft_eq]

/-- Settles O12: the three steps leave the voice alone, so each changes only its working value, whose index, channel or shift the
operand lemmas write out. -/
theorem frequencySteps : Obligations.FrequencySteps := by
  intro s i v hi hv
  have hs : s.voice? i = some v := voice?_eq_some hi hv
  refine ⟨?_, fun ch hch => ?_, ?_⟩
  · rw [exec_noteToFrequency, onSlot_work _ hs rfl, Lane.noteToFrequency, noteOf_eq]
    rfl
  · rw [exec_applyPitchBend, onSlot_work _ hs rfl, Lane.applyPitchBend, channelOf_eq hch]
    rfl
  · rw [exec_frequencyToWavelength, onSlot_work _ hs rfl, Lane.frequencyToWavelength, wavelengthOf_eq]
    rfl

end Sys2Proof.Machine
end

section
/-! O14, O15: the steps on the life and the phase of one slot (spec/42_frequency_and_phase.md R85 to R87). -/

namespace Sys2Proof.Machine

open Sys2Proof

/-- Settles O14: the step leaves the working values alone and writes the advanced phase (R86). -/
theorem phaseAdvanceWrapsToZero : Obligations.PhaseAdvanceWrapsToZero := by
  intro s i v hi hv
  rw [exec_phaseAdvance, onSlot_voice _ (voice?_eq_some hi hv) rfl]
  rfl

/-- Settles O15: both steps leave the working values alone; one writes the normalised phase (R87), one the advanced life (R85). -/
theorem normaliseAndLifeSteps : Obligations.NormaliseAndLifeSteps := by
  intro s i v hi hv
  have hs : s.voice? i = some v := voice?_eq_some hi hv
  constructor
  · rw [exec_phaseNormalise, onSlot_voice _ hs rfl]
    rfl
  · rw [exec_lifeAdvance, onSlot_voice _ hs rfl]
    rfl

end Sys2Proof.Machine
end

section
/-! O36: the phase under a run of ticks (spec/42_frequency_and_phase.md R90). -/

namespace Sys2Proof.Machine

open Sys2Proof

variable {c : Cfg} {g : GlobalState}

/-! ### A run of ticks -/

/-- A step that takes a tick steps every voice once and emits one sample (R113); `CFG` and `G` stay. -/
theorem step_tick {s : State} {es : List Event} (hc : s.cfg.valid = true) (he : s.inputs = .tick :: es) :
    ∃ t, step s = .next t ∧ t.cfg = s.cfg ∧ t.g = s.g ∧ t.inputs = es ∧ t.v = s.v.map (afterTick s.cfg s.g) ∧
      t.emitted.length = s.emitted.length + 1 :=
  ⟨_, (step_cons hc he).trans (exec_tick _), rfl, rfl, rfl, rfl, List.length_append⟩

/-- `n` ticks step every voice `n` times, with the `CFG` and the `G` of the start, and emit `n` samples (R113, R114). -/
theorem run_ticks (n : Nat) {s : State} {rest : List Event} (hc : s.cfg.valid = true)
    (he : s.inputs = List.replicate n .tick ++ rest) :
    ∃ t, core.run n s = .next t ∧ t.inputs = rest ∧ t.emitted.length = s.emitted.length + n ∧
      t.v = s.v.map (afterTick s.cfg s.g)^[n] := by
  induction n generalizing s with
  | zero => exact ⟨s, rfl, he, rfl, (List.map_id _).symm⟩
  | succ n ih =>
    obtain ⟨u, hstep, hcfg, hg, huinputs, huv, huemitted⟩ := step_tick hc he
    obtain ⟨t, hrun, htinputs, htemitted, htv⟩ := ih (hcfg.symm ▸ hc) huinputs
    refine ⟨t, (run_next hstep).trans hrun, htinputs, by omega, ?_⟩
    rw [htv, huv, hcfg, hg, List.map_map, Function.iterate_succ]

/-! ### The period of the phase -/

/-- The number of samples in a period of wavelength `w`, `ceil(w / LIFE_INC)` (R90). -/
def samplesPerPeriod (c : Cfg) (w : Nat) : Nat := (w + c.lifeScale - 1) / c.lifeScale

/-- A multiple of the increment reaches the wavelength exactly when it counts at least the samples of a period. -/
theorem le_mul_lifeScale_iff (hl : 1 ≤ c.lifeScale) (w m : Nat) : w ≤ m * c.lifeScale ↔ samplesPerPeriod c w ≤ m := by
  rw [samplesPerPeriod, ← Nat.ceilDiv_eq_add_pred_div, ceilDiv_le_iff_le_mul hl, Nat.mul_comm]

/-- One `TICK` inside the period: the next multiple of the increment, or zero after the last one (R86). -/
theorem advancedPhase_mul_lifeScale (hl : 1 ≤ c.lifeScale) {w m : Nat} (hm : m < samplesPerPeriod c w) :
    advancedPhase c (normalised (m * c.lifeScale) w) w = (m + 1) % samplesPerPeriod c w * c.lifeScale := by
  have hinside : m * c.lifeScale < w := Nat.not_le.1 fun h => Nat.not_le.2 hm ((le_mul_lifeScale_iff hl w m).1 h)
  rw [normalised_of_lt hinside, advancedPhase, ← Nat.succ_mul]
  split
  · next hwrap =>
    have hlast : m + 1 = samplesPerPeriod c w := Nat.le_antisymm hm ((le_mul_lifeScale_iff hl w _).1 hwrap)
    rw [hlast, Nat.mod_self, Nat.zero_mul]
  · next hwrap =>
    have hnext : m + 1 < samplesPerPeriod c w := Nat.not_le.1 fun h => hwrap ((le_mul_lifeScale_iff hl w _).2 h)
    rw [Nat.mod_eq_of_lt hnext]

theorem afterTick_iterate_assign (n : Nat) (v : Voice) : ((afterTick c g)^[n] v).assign = v.assign := by
  induction n with
  | zero => rfl
  | succ n ih => rw [Function.iterate_succ_apply', ← ih]; rfl

/-- The phase of a voice that starts at 0, after `n` ticks (R90). -/
theorem afterTick_iterate_phase (hc : c.valid = true) {v : Voice} (hv : v.phase = 0) (n : Nat) :
    ((afterTick c g)^[n] v).phase = n % samplesPerPeriod c (voiceWavelength c g v.assign) * c.lifeScale := by
  obtain ⟨-, -, hl, -⟩ := valid_sizes hc
  obtain ⟨hw, -⟩ := valid_wavelength hc g v.assign
  have hperiod : 0 < samplesPerPeriod c (voiceWavelength c g v.assign) := by
    refine Nat.pos_of_ne_zero fun h0 => ?_
    have := (le_mul_lifeScale_iff hl _ 0).2 h0.le
    omega
  induction n with
  | zero => rw [Nat.zero_mod, Nat.zero_mul]; exact hv
  | succ n ih =>
    rw [Function.iterate_succ_apply', afterTick, afterTick_iterate_assign, ih,
      advancedPhase_mul_lifeScale hl (Nat.mod_lt n hperiod), Nat.mod_add_mod]

/-- Settles O36: a run of ticks steps the voice of slot `k` `n` times. -/
theorem phaseRunsThroughItsPeriod : Obligations.PhaseRunsThroughItsPeriod := by
  rintro n s rest k w v hc he hk hphase rfl
  obtain ⟨t, hrun, -, -, hv⟩ := run_ticks n hc he
  refine ⟨t, _, hrun, ?_, afterTick_iterate_phase hc hphase n⟩
  rw [hv, List.getElem?_map, hk, Option.map_some]

end Sys2Proof.Machine
end

section
/-! O37: what moves a phase and what zeroes it (spec/42_frequency_and_phase.md R89). -/

namespace Sys2Proof.Machine

open Sys2Proof

variable {s : State} {c : Cfg} {p w : Nat}

theorem advancedPhase_normalised_of_inside (h : p + c.lifeScale < w) :
    advancedPhase c (normalised p w) w = p + c.lifeScale := by
  rw [normalised_of_lt (by omega), advancedPhase, if_neg (Nat.not_le.2 h)]

theorem advancedPhase_normalised_of_wrap (hp : p < w) (h : w ≤ p + c.lifeScale) :
    advancedPhase c (normalised p w) w = 0 := by
  rw [normalised_of_lt hp, advancedPhase, if_pos h]

/-- A rewrite of a voice that keeps its phase keeps every phase. -/
theorem modifyVoice_map_phase {i : Slot} {f : Voice → Voice} (hf : ∀ v, (f v).phase = v.phase) :
    (s.modifyVoice i f).v.map (·.phase) = s.v.map (·.phase) := by
  rcases modifyVoice_cases (s := s) (i := i) f with he | ⟨v, hv, he⟩ <;> rw [he]
  obtain ⟨-, hv⟩ := voice?_some hv
  rw [State.setV_v, List.map_set, hf, ← List.map_set, set_self hv]

/-- Settles O37: of the writers of a phase (O44), only a `TICK` that reaches the period, a set reset flag and RESET leave a zero. -/
theorem phaseContinuity : Obligations.PhaseContinuity := by
  refine fun s t => ⟨fun r ht => ?_, fun i a ht => ?_, fun ht k v w hv hw => ?_, fun i k v w hi ht hv hw hne hzero => ?_⟩
  · cases ht
    rfl
  · cases ht
    exact modifyVoice_map_phase fun _ => rfl
  · rw [exec_tick_slot ht hv hw]
    exact ⟨advancedPhase_normalised_of_inside, advancedPhase_normalised_of_wrap⟩
  · have hchanged : w.phase ≠ v.phase := by rwa [hzero, ne_comm]
    obtain ⟨-, -, hslot⟩ := writeMatrix i s t hi ht
    obtain ⟨-, hphase, -⟩ := hslot k v w hv hw
    rcases hphase (.inr hchanged) with hreset | rfl | ⟨j, rf, a, hgen, hj, hrf, -⟩
    · exact .inl hreset
    · refine .inr (.inl ⟨rfl, Nat.not_lt.1 fun hinside => ?_⟩)
      rw [exec_tick_slot ht hv hw] at hzero
      have := (advancedPhase_normalised_of_inside hinside).symm.trans hzero
      omega
    · exact .inr (.inr ⟨j, rf, a, hgen, hj, hrf⟩)

end Sys2Proof.Machine
end

section
/-! O16, O17: the waveforms (spec/43_waveforms.md R91 to R97). -/

namespace Sys2Proof.Machine

open Sys2Proof

variable {c : Cfg} {p w : Nat} {b : Byte} {k : Waveform} {s : State} {i : Slot} {v : Voice}

/-! ### The formulas, over the integers -/

theorem normalised_le (p w : Nat) : normalised p w ≤ w := by
  unfold normalised
  split <;> omega

theorem square_eq (c : Cfg) (p w : Nat) :
    square c p w = if p < w / 2 then (c.sampleMax : Int) else -(c.sampleMax : Int) := by
  rw [square, Nat.shiftRight_one]

/-- The natural subtraction of the fold is the integers' for a phase inside the period. -/
theorem triangle_eq (h : p ≤ w) :
    triangle c p w = (4 * c.sampleMax : Int) * min (p : Int) ((w : Int) - p) / w - c.sampleMax := by
  rw [triangle]
  push_cast [h]
  rfl

theorem sawtooth_eq (c : Cfg) (p w : Nat) : sawtooth c p w = (2 * c.sampleMax : Int) * p / w - c.sampleMax := by
  rw [sawtooth]
  push_cast
  rfl

/-! ### The waveform of a selector -/

theorem wave_zero (c : Cfg) (b : Byte) (p : Nat) : wave c b p 0 = 0 := if_pos rfl

theorem wave_of_selects (hk : waveformOf b = k) : wave c b p w = if w = 0 then 0 else shape c k p w := by
  rw [wave, hk]

/-- Every shape stays in range at a phase inside the period (R91). -/
theorem shape_bounds (hc : c.valid = true) (h : p < w) (k : Waveform) :
    -(c.sampleMax : Int) ≤ shape c k p w ∧ shape c k p w ≤ c.sampleMax := by
  cases k with
  | square =>
    have := square_natAbs (c := c) p w
    simp only [shape]
    omega
  | triangle => exact triangle_bounds (Nat.one_le_of_lt h)
  | sawtooth => exact sawtooth_bounds h
  | sine =>
    obtain ⟨-, -, -, -, -, hsize⟩ := valid_sizes hc
    exact sineAt_bounds hc (sine_index_lt h hsize)
  | silent =>
    simp only [shape]
    omega

/-- A waveform step that the instrument byte selects writes the sample of its shape at the normalised phase. -/
theorem onSlot_waveStep_selected (hs : s.voice? i = some v) (hk : waveformOf v.assign.instrument = k) :
    s.onSlot i (Lane.waveStep s.cfg k) =
      s.setWork { s.work with
        wave :=
          if s.work.wavelength = 0 then 0
          else shape s.cfg k (normalised v.phase s.work.wavelength) s.work.wavelength } := by
  have hstep : Lane.waveStep s.cfg k ⟨v, s.work⟩ =
      ⟨v, { s.work with
        wave := wave s.cfg v.assign.instrument (normalised v.phase s.work.wavelength) s.work.wavelength }⟩ := if_pos hk
  rw [onSlot_work _ hs (by rw [hstep]), hstep, wave_of_selects hk]

/-- Settles O16: the byte selects the step, whose shape the formulas above write out; the silent shape is 0 at every wavelength. -/
theorem waveformSteps : Obligations.WaveformSteps := by
  rintro s i v p w hi hv rfl hp
  have hs : s.voice? i = some v := voice?_eq_some hi hv
  obtain rfl : p = normalised v.phase s.work.wavelength := hp
  refine ⟨fun h => ?_, fun h => ?_, fun h => ?_, fun h => ?_, fun h => ?_⟩
  · rw [exec_waveSquare, onSlot_waveStep_selected hs ((waveformOf_eq_iff rfl _).2 h), shape, square_eq]
    rfl
  · rw [exec_waveTriangle, onSlot_waveStep_selected hs ((waveformOf_eq_iff rfl _).2 h), shape,
      triangle_eq (normalised_le _ _)]
    rfl
  · rw [exec_waveSawtooth, onSlot_waveStep_selected hs ((waveformOf_eq_iff rfl _).2 h), shape, sawtooth_eq]
    rfl
  · rw [exec_waveSine, onSlot_waveStep_selected hs ((waveformOf_eq_iff rfl _).2 h)]
    rfl
  · rw [exec_waveNone, onSlot_waveStep_selected hs ((waveformOf_eq_silent_iff _).2 h), shape, ite_self]
    rfl

/-- Settles O17: a byte picks its shape by the selector codes, and every shape is in range inside the period. -/
theorem waveformDispatchAndRange : Obligations.WaveformDispatchAndRange := by
  intro c b p w hpw
  have hpicks (k : Waveform) (hw : 1 ≤ w) (hk : waveformOf b = k) : wave c b p w = shape c k p w := by
    rw [wave_of_selects hk, if_neg (Nat.ne_zero_of_lt hw)]
  refine ⟨?_, fun hw => ⟨?_, ?_, ?_, ?_, ?_⟩, fun hc => ?_⟩
  · rintro rfl
    exact wave_zero c b p
  · exact fun h => hpicks .square hw ((waveformOf_eq_iff rfl b).2 h)
  · exact fun h => hpicks .triangle hw ((waveformOf_eq_iff rfl b).2 h)
  · exact fun h => hpicks .sawtooth hw ((waveformOf_eq_iff rfl b).2 h)
  · exact fun h => hpicks .sine hw ((waveformOf_eq_iff rfl b).2 h)
  · exact fun h => hpicks .silent hw ((waveformOf_eq_silent_iff b).2 h)
  · rcases hpw with rfl | h
    · rw [wave_zero]
      omega
    · rw [hpicks _ (Nat.one_le_of_lt h) rfl]
      exact shape_bounds hc h _

end Sys2Proof.Machine
end

section
/-! O18 to O23: the envelope (spec/44_envelope.md R98 to R107). -/

namespace Sys2Proof.Machine

open Sys2Proof

/-! ### The level, state by state -/

section
variable {c : Cfg} {en : Bool} {t t' L : Nat} {e : Envelope}

theorem envLevel_of_envState {k : EnvState} (hk : envState en t e = k) : envLevel c en t L e = levelIn c t L e k := by
  rw [envLevel, hk]

theorem envLevel_disabled : envLevel c false t L e = releaseLevel t L e :=
  envLevel_of_envState (envState_eq_release_iff.2 rfl)

theorem envLevel_attack (h : t < e.attack) : envLevel c true t L e = attackLevel c t e :=
  envLevel_of_envState (envState_eq_attack_iff.2 ⟨rfl, h⟩)

theorem envLevel_decay (hA : e.attack ≤ t) (hD : t < e.attack + e.decay) : envLevel c true t L e = decayLevel c t e :=
  envLevel_of_envState (envState_eq_decay_iff.2 ⟨rfl, hA, hD⟩)

/-! ### The shape of each ramp -/

theorem releaseLevel_zero : releaseLevel 0 L e = if 1 ≤ e.release then L else 0 := by
  rw [releaseLevel, Nat.sub_zero]
  exact ite_congr rfl (fun hR => Nat.mul_div_cancel L hR) fun _ => rfl

theorem releaseLevel_antitone (h : t ≤ t') : releaseLevel t' L e ≤ releaseLevel t L e := by
  unfold releaseLevel
  by_cases ht' : t' < e.release
  · rw [if_pos ht', if_pos (h.trans_lt ht')]
    gcongr
  · rw [if_neg ht']
    exact Nat.zero_le _

theorem attackLevel_zero : attackLevel c 0 e = 0 := by rw [attackLevel, Nat.mul_zero, Nat.zero_div]

theorem attackLevel_mono (h : t ≤ t') : attackLevel c t e ≤ attackLevel c t' e := by
  unfold attackLevel
  gcongr

theorem decayLevel_attack : decayLevel c e.attack e = c.envFull := by
  rw [decayLevel, Nat.sub_self, Nat.mul_zero, Nat.zero_div, Nat.sub_zero]

theorem decayLevel_antitone (h : t ≤ t') : decayLevel c t' e ≤ decayLevel c t e := by
  unfold decayLevel
  gcongr

/-- Within its duration the ramp falls by at most the distance from full scale to the sustain level. -/
theorem sustain_le_decayLevel (hS : e.sustain ≤ c.envFull) (hD : t < e.attack + e.decay) :
    e.sustain ≤ decayLevel c t e := by
  have hfall : (c.envFull - e.sustain) * (t - e.attack) / e.decay ≤ c.envFull - e.sustain :=
    Nat.div_le_of_le_mul (by rw [Nat.mul_comm e.decay]; gcongr; omega)
  unfold decayLevel
  omega

end

/-- Settles O20: the release starts from a latched level in range, the other states lie below full scale. -/
theorem envelopeLevelRange : Obligations.EnvelopeLevelRange := fun _ _ _ _ _ => envLevel_le

/-- Settles O21: the flag and the time select the ramp, and each ramp has its shape. -/
theorem rampShapes : Obligations.RampShapes := by
  intro c e L t t' htt'
  refine ⟨fun hR => ?_, ?_, fun hR => ?_, fun hA => ?_, fun hA => ?_, fun hD => ?_, fun hS hA hD => ?_⟩
  · rw [envLevel_disabled, releaseLevel_zero, if_pos hR]
  · rw [envLevel_disabled, envLevel_disabled]
    exact releaseLevel_antitone htt'
  · rw [envLevel_disabled, releaseLevel, if_neg (Nat.not_lt.2 hR)]
  · rw [envLevel_attack hA, attackLevel_zero]
  · rw [envLevel_attack (htt'.trans_lt hA), envLevel_attack hA]
    exact attackLevel_mono htt'
  · rw [envLevel_decay le_rfl (Nat.lt_add_of_pos_right hD), decayLevel_attack]
  · rw [envLevel_decay (hA.trans htt') hD, envLevel_decay hA (htt'.trans_lt hD)]
    exact ⟨decayLevel_antitone htt', sustain_le_decayLevel hS hD⟩

/-! ### The steps -/

/-- An envelope step that the voice's flag and time select writes the level of its state. -/
theorem exec_envInstr_selected {s : State} {i : Slot} {v : Voice} {k : EnvState} (hs : s.voice? i = some v)
    (hk : v.envState s.cfg s.g = k) :
    exec (envInstr k i) s =
      .next { s with work := { s.work with
        level := levelIn s.cfg (elapsed s.cfg v.life) v.latched s.g.env k } } := by
  have hstep : Lane.envStep s.cfg s.g k ⟨v, s.work⟩ =
      ⟨v, { s.work with level := levelIn s.cfg (elapsed s.cfg v.life) v.latched s.g.env k }⟩ := if_pos hk
  rw [exec_envInstr, onSlot_work _ hs (by rw [hstep]), hstep, State.setWork]

/-- Settles O18: the condition of each clause is that the flag and the elapsed time select its step. -/
theorem envelopeRampSteps : Obligations.EnvelopeRampSteps := by
  rintro s i v t hi hv rfl
  have hs : s.voice? i = some v := voice?_eq_some hi hv
  refine ⟨fun hoff => ?_, fun hon hA => ?_, fun hon hA hD => ?_⟩
  · exact exec_envInstr_selected hs (envState_eq_release_iff.2 ((isEnabled_eq_false _).2 hoff))
  · exact exec_envInstr_selected hs (envState_eq_attack_iff.2 ⟨(isEnabled_eq_true _).2 hon, hA⟩)
  · exact exec_envInstr_selected hs (envState_eq_decay_iff.2 ⟨(isEnabled_eq_true _).2 hon, hA, hD⟩)

/-- Settles O19: an enabled flag and a time past the decay select the step. -/
theorem sustainStep : Obligations.SustainStep := fun _ _ _ hi hv hon ht =>
  exec_envInstr_selected (voice?_eq_some hi hv) (envState_eq_sustain_iff.2 ⟨(isEnabled_eq_true _).2 hon, ht⟩)

/-- Settles O22: the step leaves the working values alone, and the voice too when it is disabled. -/
theorem latchUpdateStep : Obligations.LatchUpdateStep := by
  intro s i v hi hv
  refine ⟨fun hon => ?_, fun hoff => ?_⟩
  · have hstep : Lane.latchUpdate ⟨v, s.work⟩ = ⟨{ v with latched := s.work.level }, s.work⟩ :=
      if_pos ((isEnabled_eq_true _).2 hon)
    rw [exec_latchUpdate, onSlot_voice _ (voice?_eq_some hi hv) (by rw [hstep]), hstep, State.setV]
  · have hstep : Lane.latchUpdate ⟨v, s.work⟩ = ⟨v, s.work⟩ := if_neg (by simp [isEnabled_eq_true, hoff])
    rw [exec_latchUpdate, onSlot_fixed hv hstep]

/-! ### Continuity -/

theorem afterTick_latched_of_enabled {c : Cfg} {g : GlobalState} {v : Voice} (hon : isEnabled v.assign = true) :
    (afterTick c g v).latched = envLevel c true (elapsed c v.life) v.latched g.env := by
  rw [afterTick, if_pos hon, hon]

/-- What a `TICK` leaves of the configuration, of `G` and of a slot (R113). -/
theorem exec_tick_next {s t : State} (ht : exec .tick s = .next t) {k : Nat} {v : Voice} (hv : s.v[k]? = some v) :
    t.cfg = s.cfg ∧ t.g = s.g ∧ t.v[k]? = some (afterTick s.cfg s.g v) := by
  rw [exec_tick] at ht
  cases ht
  exact ⟨rfl, rfl, by simp [hv]⟩

/-- Settles O23: the TICK latches the level it used, the packet keeps it and restarts the time, and the release ramp starts at the
latched level. -/
theorem envelopeContinuity : Obligations.EnvelopeContinuity := by
  intro s s1 s2 i v rf a hi hv hon hoff hrf htick hpkt
  obtain ⟨hcfg, hg, hv1⟩ := exec_tick_next htick hv
  obtain ⟨hpacket, -⟩ := generatorPacketWritesOneSlot s1 i _ (by rwa [hcfg]) hv1
  rw [hpacket, if_neg hrf, if_neg hrf] at hpkt
  cases hpkt
  refine ⟨_, List.getElem?_set_self (List.getElem?_eq_some_iff.1 hv1).1,
    afterTick_latched_of_enabled ((isEnabled_eq_true _).2 hon), ?_⟩
  rw [(isEnabled_eq_false a).2 hoff, envLevel_disabled, elapsed, Nat.zero_div, releaseLevel_zero, hg]

end Sys2Proof.Machine
end

section
/-! O24, O25: the sample of a voice (spec/45_mixer_and_tick.md R108). -/

namespace Sys2Proof.Machine

open Sys2Proof

/-- Settles O24: the step writes a working value only, and R9's division is the integers' truncating one. -/
theorem voiceScaleStep : Obligations.VoiceScaleStep := by
  intro s i v hi hv
  rw [exec_voiceScale, onSlot_work _ (voice?_eq_some hi hv) rfl, ← velocityOf_eq, ← tdiv_eq, ← tdiv_eq]
  rfl

theorem voiceSample_neg (c : Cfg) (x : Int) (lvl vel : Nat) :
    voiceSample c (-x) lvl vel = -voiceSample c x lvl vel := by
  simp only [voiceSample, neg_mul, tdiv_neg]

/-- A quotient by full scale gives back what was scaled by full scale. -/
theorem tdiv_mul_self {b : Nat} (hb : 1 ≤ b) (x : Int) : tdiv (x * b) b = x := by
  rw [tdiv_eq, Int.mul_tdiv_cancel x (by omega)]

/-- Settles O25: each of the two divisions is bounded by, odd in and at full scale equal to what it scales. -/
theorem voiceSampleSymmetricBounded : Obligations.VoiceSampleSymmetricBounded := by
  intro c x lvl vel hlvl hvel
  refine ⟨voiceSample_natAbs_le hlvl hvel, voiceSample_neg c x lvl vel, fun hfull hmax => ?_⟩
  rw [voiceSample, tdiv_mul_self hfull, tdiv_mul_self hmax]

end Sys2Proof.Machine
end

section
/-! O26, O27: one voice step and its program (spec/45_mixer_and_tick.md R109). -/

namespace Sys2Proof.Machine

open Sys2Proof

variable {s : State} {i : Slot} {v : Voice}

/-- Settles O26: the slot's lane ends with the voice and the working values of `Lane.voiceStep`, whose latch test is the
statement's with its branches swapped. -/
theorem voiceStepResult : Obligations.VoiceStepResult := by
  rintro s i v w p lvl x hi hv rfl rfl rfl rfl
  have hlatch (l : Nat) :
      (if isEnabled v.assign = true then l else v.latched) = if v.assign.enabled = 0 then v.latched else l := by
    simp only [isEnabled_eq_true, ne_eq, ite_not]
  rw [exec_voiceStep, onSlot_some _ (voice?_eq_some hi hv), voiceStep_voice, voiceStep_work, afterTick, hlatch]
  rfl

/-- Two steps that do the same to the lane of a slot do the same to the state. -/
theorem onSlot_congr {f f' : Lane → Lane} (h : s.voice? i = some v) (hf : f ⟨v, s.work⟩ = f' ⟨v, s.work⟩) :
    s.onSlot i f = s.onSlot i f' := by
  rw [onSlot_some f h, onSlot_some f' h, hf]

/-- The program of a voice step, with any waveform and envelope step, is one step of the slot's lane. -/
theorem execAll_voiceProgram (b : Byte) (k : EnvState) (i : Slot) (s : State) :
    execAll (voiceProgram (decodeSelector b) (envInstr k) i) s =
      .next (s.onSlot i fun l =>
        l.noteToFrequency s.cfg |>.applyPitchBend s.cfg s.g |>.frequencyToWavelength s.cfg |>.phaseNormalise
          |>.waveStep s.cfg (waveformOf b) |>.envStep s.cfg s.g k |>.latchUpdate |>.voiceScale s.cfg
          |>.lifeAdvance s.cfg |>.phaseAdvance s.cfg) := by
  simp only [voiceProgram, execAll, exec_noteToFrequency, exec_applyPitchBend, exec_frequencyToWavelength,
    exec_phaseNormalise, exec_decodeSelector, exec_envInstr, exec_latchUpdate, exec_voiceScale, exec_lifeAdvance,
    exec_phaseAdvance, onSlot_cfg, onSlot_g, onSlot_onSlot]

theorem waveStep_voice (c : Cfg) (k : Waveform) (l : Lane) : (l.waveStep c k).voice = l.voice := by
  unfold Lane.waveStep
  split <;> rfl

theorem phaseNormalise_envState (c : Cfg) (g : GlobalState) (l : Lane) :
    l.phaseNormalise.voice.envState c g = l.voice.envState c g := rfl

/-- Settles O27: no step before the waveform step writes the instrument byte, and none before the envelope step
writes what selects the envelope state. -/
theorem voiceStepIsItsProgram : Obligations.VoiceStepIsItsProgram := by
  intro s i v hi hv
  rw [execAll_voiceProgram, exec_voiceStep]
  refine congrArg Host.Outcome.next (onSlot_congr (voice?_eq_some hi hv) ?_)
  simp only [Lane.voiceStep, waveStep_voice, phaseNormalise_envState]
  rfl

end Sys2Proof.Machine
end

section
/-! O28 to O31: the mixer and `TICK` (spec/45_mixer_and_tick.md R110 to R113). -/

namespace Sys2Proof.Machine

open Sys2Proof

variable {s : State}

/-! ### The voice steps of the mixer -/

/-- What VOICE_STEP leaves of the configuration, of `G` and of the slots, and the sample it computes. -/
theorem exec_voiceStep_next {i : Slot} {v : Voice} (hi : slotValid s.cfg i = true) (hv : s.v[i.toNat]? = some v) :
    ∃ u, exec (.voiceStep i) s = .next u ∧ u.cfg = s.cfg ∧ u.g = s.g ∧ u.work.sample = sampleOf s.cfg s.g v ∧
      u.v = s.v.modify i.toNat (afterTick s.cfg s.g) := by
  refine ⟨_, exec_voiceStep s i, onSlot_cfg _, onSlot_g _, ?_⟩
  rw [onSlot_some _ (voice?_eq_some hi hv), voiceStep_voice, voiceStep_work, List.modify_eq_set_getElem?, hv]
  exact ⟨rfl, rfl⟩

/-- The samples and the voices of a `TICK` are those of the VOICE_STEP of each slot from the state at hand. -/
theorem exec_voiceStep_getElem? (hlen : s.v.length = s.cfg.nGenerators) {i : Slot} (hi : slotValid s.cfg i = true) :
    ∃ u, exec (.voiceStep i) s = .next u ∧ (s.v.map (sampleOf s.cfg s.g))[i.toNat]? = some u.work.sample ∧
      (s.v.map (afterTick s.cfg s.g))[i.toNat]? = u.v[i.toNat]? := by
  have hv := List.getElem?_eq_getElem (hlen ▸ slotValid_iff.1 hi)
  obtain ⟨u, hu, -, -, hsample, huv⟩ := exec_voiceStep_next hi hv
  refine ⟨u, hu, ?_, ?_⟩
  · rw [hsample, List.getElem?_map, hv, Option.map_some]
  · rw [huv, List.getElem?_map, List.getElem?_modify_eq]
    rfl

/-- MIX_ACCUMULATE steps every voice and sums their samples (R110). -/
theorem exec_mixAccumulate_eq (s : State) :
    exec .mixAccumulate s =
      .next { s with
        v := s.v.map (afterTick s.cfg s.g)
        work := { s.work with acc := (s.v.map (sampleOf s.cfg s.g)).sum } } :=
  congrArg Host.Outcome.next (mixAccumulate_eq s)

/-! ### Bounds -/

theorem sampleOf_natAbs_le {c : Cfg} {g : GlobalState} {v : Voice} (hc : c.valid = true) (hv : v.InRange c)
    (he : g.env.InRange c) : (sampleOf c g v).natAbs ≤ c.sampleMax := by
  obtain ⟨-, -, hlatched⟩ := hv
  obtain ⟨-, -, hsustain, -⟩ := he
  obtain ⟨-, -, -, -, hmax, -⟩ := valid_sizes hc
  obtain ⟨hw, -⟩ := valid_wavelength hc g v.assign
  have hinside := normalised_lt (p := v.phase) hw
  obtain ⟨-, -, hrange⟩ := waveformDispatchAndRange c v.assign.instrument _ _ (.inr hinside)
  have hwave := hrange hc
  refine (voiceSample_natAbs_le (envLevel_le hlatched hsustain) (hmax ▸ velocityOf_le _)).trans ?_
  omega

/-- The sum of the samples is within `N_GENERATORS` full-scale samples (R110). -/
theorem samples_sum_natAbs_le (hc : s.cfg.valid = true) (hlen : s.v.length = s.cfg.nGenerators)
    (hv : ∀ v ∈ s.v, v.InRange s.cfg) (he : s.g.env.InRange s.cfg) :
    (s.v.map (sampleOf s.cfg s.g)).sum.natAbs ≤ s.cfg.nGenerators * s.cfg.sampleMax := by
  rw [← hlen, ← List.length_map (sampleOf s.cfg s.g)]
  refine sum_natAbs_le fun x hx => ?_
  obtain ⟨v, hmem, rfl⟩ := List.mem_map.1 hx
  exact sampleOf_natAbs_le hc (hv v hmem) he

theorem mixOut_natAbs_le (c : Cfg) (masterVolume : Byte) {acc : Int} {m : Nat} (h : acc.natAbs ≤ m) :
    (mixOut c masterVolume acc).natAbs ≤ m * 255 * 2 ^ c.headroomShift := by
  rw [mixOut, Int.natAbs_mul, Int.natAbs_mul, Int.natAbs_natCast, Int.natAbs_natCast]
  gcongr
  omega

/-- A magnitude within the largest value of a width lies in that width. -/
theorem signed_range_of_natAbs_le {x : Int} {m n : Nat} (h : x.natAbs ≤ m) (hm : m ≤ 2 ^ (n - 1) - 1) :
    -(2 ^ (n - 1) : Nat) ≤ x ∧ x < (2 ^ (n - 1) : Nat) := by
  have := Nat.two_pow_pos (n - 1)
  omega

/-! ### The operations -/

/-- Settles O28: the accumulator holds the sum of the samples of the voice steps, which R8 keeps in its width. -/
theorem mixAccumulateSumsVoiceSteps : Obligations.MixAccumulateSumsVoiceSteps := by
  intro s hlen _
  refine ⟨_, _, exec_mixAccumulate_eq s, (List.length_map _).trans hlen, fun _ hi => exec_voiceStep_getElem? hlen hi,
    rfl, (List.length_map _).trans hlen, fun hc hv he => ?_⟩
  have hsum := samples_sum_natAbs_le hc hlen hv he
  obtain ⟨⟨-, hacc⟩, -⟩ := valid_mixer hc
  exact ⟨hsum, signed_range_of_natAbs_le hsum hacc⟩

/-- Settles O29: the step is its formula. -/
theorem mixScaleResult : Obligations.MixScaleResult := exec_mixScale

/-- Settles O30: the slots and samples of a `TICK` are those of the voice steps. -/
theorem tickResult : Obligations.TickResult := by
  intro s hlen _
  exact ⟨_, s.v.map (sampleOf s.cfg s.g), exec_tick s, (List.length_map _).trans hlen, (List.length_map _).trans hlen,
    fun _ hi => exec_voiceStep_getElem? hlen hi⟩

/-- Settles O31: the magnitude of the scaled sum is within the bound of R8, so the output register holds it. -/
theorem mixerNeverOverflows : Obligations.MixerNeverOverflows := by
  rintro s u t ⟨hc, hlen, hv, he, -⟩ hu ht
  rw [exec_mixAccumulate_eq] at hu
  rw [exec_tick] at ht
  cases hu
  cases ht
  have hbound := mixOut_natAbs_le s.cfg s.g.masterVolume (samples_sum_natAbs_le hc hlen hv he)
  obtain ⟨-, hw, hout⟩ := valid_mixer hc
  obtain ⟨hlow, hhigh⟩ := signed_range_of_natAbs_le hbound hout
  exact ⟨congrArg (s.emitted ++ [·]) (wrapS_of_range hw hlow hhigh), hbound⟩

end Sys2Proof.Machine
end

section
/-! O32, O33: the voices are independent (spec/45_mixer_and_tick.md R115). -/

namespace Sys2Proof.Machine

open Sys2Proof

/-- Elements each rewritten at most once, in any order. -/
theorem foldl_modify_getElem? {α : Type} (f : α → α) {order : List Nat} (hnd : order.Nodup) (l : List α)
    (j : Nat) : (order.foldl (fun l k => l.modify k f) l)[j]? = if j ∈ order then l[j]?.map f else l[j]? := by
  induction order generalizing l with
  | nil => rfl
  | cons k ks ih =>
    obtain ⟨hk, hks⟩ := List.nodup_cons.1 hnd
    rw [List.foldl_cons, ih hks, List.getElem?_modify]
    by_cases hjk : k = j
    · subst hjk
      simp [hk]
    · simp [hjk, Ne.symm hjk]

/-- VOICE_STEPs one after another complete, and each steps the voice of its slot. -/
theorem execAll_voiceSteps {order : List Nat} {s : State} (hlen : s.v.length = s.cfg.nGenerators)
    (hn : s.cfg.nGenerators ≤ 65536) (horder : ∀ k ∈ order, k < s.cfg.nGenerators) :
    ∃ t, execAll (order.map fun k => .voiceStep (BitVec.ofNat 16 k)) s = .next t ∧
      t.v = order.foldl (fun vs k => vs.modify k (afterTick s.cfg s.g)) s.v := by
  induction order generalizing s with
  | nil => exact ⟨s, rfl, rfl⟩
  | cons k ks ih =>
    obtain ⟨hk, hks⟩ := List.forall_mem_cons.1 horder
    have hslot : (BitVec.ofNat 16 k).toNat = k := Nat.mod_eq_of_lt (hk.trans_le hn)
    obtain ⟨u, hu, hcfg, hg, -, huv⟩ := exec_voiceStep_next (s := s) (i := BitVec.ofNat 16 k)
      (slotValid_iff.2 (hslot.symm ▸ hk)) (List.getElem?_eq_getElem (by rwa [hslot, hlen]))
    rw [hslot] at huv
    obtain ⟨t, ht, htv⟩ := ih (s := u) (by rw [huv, List.length_modify, hlen, hcfg]) (hcfg ▸ hn) (hcfg ▸ hks)
    refine ⟨t, ?_, ?_⟩
    · rw [List.map_cons, execAll, hu]
      exact ht
    · rw [htv, hcfg, hg, huv, List.foldl_cons]

/-- Settles O32: a permutation of the slots names each slot once, so it steps each voice once, as the mixer does. -/
theorem voiceOrderIrrelevant : Obligations.VoiceOrderIrrelevant := by
  intro s order hlen hn hperm
  have hmem (k : Nat) : k ∈ order ↔ k < s.cfg.nGenerators := hperm.mem_iff.trans List.mem_range
  obtain ⟨t, ht, htv⟩ := execAll_voiceSteps hlen hn fun k hk => (hmem k).1 hk
  refine ⟨t, _, ht, exec_mixAccumulate_eq s, List.ext_getElem? fun j => ?_⟩
  rw [htv, foldl_modify_getElem? _ (hperm.nodup_iff.2 List.nodup_range), List.getElem?_map]
  split
  · rfl
  · next hj =>
    have hnone : s.v[j]? = none := List.getElem?_eq_none (by rw [hlen]; exact Nat.not_lt.1 (mt (hmem j).2 hj))
    rw [hnone, Option.map_none]

/-- Settles O33: a `TICK` steps the voice of a slot with the configuration and `G` alone. -/
theorem voiceIndependence : Obligations.VoiceIndependence := by
  intro s s' t t' k hcfg hg hslot ht ht'
  rw [exec_tick] at ht ht'
  cases ht
  cases ht'
  rw [List.getElem?_map, List.getElem?_map, hcfg, hg, hslot]

end Sys2Proof.Machine
end

section
/-! O34: every voice advances once in each `TICK` (spec/45_mixer_and_tick.md R114). -/

namespace Sys2Proof.Machine

open Sys2Proof

variable {c : Cfg} {g : GlobalState}

/-- The life of a voice after `n` ticks (R85). -/
theorem afterTick_iterate_life {v : Voice} (hv : v.life < 2 ^ c.lifeW) (n : Nat) :
    ((afterTick c g)^[n] v).life = (v.life + n * c.lifeScale) % 2 ^ c.lifeW := by
  induction n with
  | zero => rw [Nat.zero_mul, Nat.add_zero, Nat.mod_eq_of_lt hv]; rfl
  | succ n ih =>
    rw [Function.iterate_succ_apply', afterTick, advancedLife, truncU, ih, Nat.mod_add_mod, Nat.add_assoc, Nat.succ_mul]

/-- The phase of a voice after `n` ticks: the wavelength is the same in each (R86, R87). -/
theorem afterTick_iterate_phase_eq (v : Voice) (n : Nat) :
    ((afterTick c g)^[n] v).phase =
      (fun p => advancedPhase c (normalised p (voiceWavelength c g v.assign)) (voiceWavelength c g v.assign))^[n]
        v.phase := by
  induction n with
  | zero => rfl
  | succ n ih =>
    rw [Function.iterate_succ_apply', Function.iterate_succ_apply', ← ih, afterTick, afterTick_iterate_assign]

/-- Settles O34: the ticks step every voice `n` times. -/
theorem exactlyOncePerTick : Obligations.ExactlyOncePerTick := by
  intro n s rest hc hlife he
  obtain ⟨t, hrun, hinputs, hemitted, hv⟩ := run_ticks n hc he
  refine ⟨t, hrun, hinputs, hemitted, ?_, ?_⟩
  · rw [hv, List.map_map]
    exact List.map_congr_left fun v hmem => afterTick_iterate_life (hlife v hmem) n
  · rw [hv, List.map_map]
    exact List.map_congr_left fun v _ => afterTick_iterate_phase_eq v n

end Sys2Proof.Machine
end

section
/-! O40, O41, O59: every operation completes and leaves the host alone, and only a bad configuration stops a step
(spec/60_exceptions.md R117, R124). -/

namespace Sys2Proof.Machine

open Sys2Proof

variable {s : State}

/-! ### The operations -/

@[simp] theorem onSlot_link (i : Slot) (f : Lane → Lane) : (s.onSlot i f).link = s.link := by
  unfold State.onSlot; split <;> rfl
@[simp] theorem onSlot_control (i : Slot) (f : Lane → Lane) : (s.onSlot i f).control = s.control := by
  unfold State.onSlot; split <;> rfl

/-- Every operation completes; it leaves the host alone, and the link too unless it is RESET, which empties it (R117, R124). -/
theorem exec_completes_host (i : Instr) (s : State) :
    ∃ t, exec i s = .next t ∧ t.control = s.control ∧ (t.link = s.link ∨ (i = .reset ∧ t.link = [])) := by
  cases i with
  | reset => exact ⟨_, exec_reset s, rfl, .inr ⟨rfl, rfl⟩⟩
  | tick => exact ⟨_, exec_tick s, rfl, .inl rfl⟩
  | pktGlobal r => exact ⟨_, exec_pktGlobal s r, rfl, .inl rfl⟩
  | pktGenerator j rf a => exact ⟨_, exec_pktGenerator s j rf a, modifyVoice_control j _, .inl (modifyVoice_link j _)⟩
  | pktIgnored => exact ⟨_, exec_pktIgnored s, rfl, .inl rfl⟩
  | mixAccumulate => exact ⟨_, exec_mixAccumulate s, rfl, .inl rfl⟩
  | mixScale => exact ⟨_, exec_mixScale s, rfl, .inl rfl⟩
  | waveSquare j | waveTriangle j | waveSawtooth j | waveSine j | waveNone j
  | envRelease j | envAttack j | envDecay j | envSustain j
  | noteToFrequency j | applyPitchBend j | frequencyToWavelength j | phaseNormalise j
  | latchUpdate j | voiceScale j | lifeAdvance j | phaseAdvance j | voiceStep j =>
    exact ⟨_, rfl, onSlot_control j _, .inl (onSlot_link j _)⟩

/-- Settles O40: the first half of what every operation does. -/
theorem everyOperationCompletes : Obligations.EveryOperationCompletes := fun i s =>
  have ⟨t, ht, _⟩ := exec_completes_host i s
  ⟨t, ht⟩

/-! ### The step -/

/-- Settles O41: the check is R8 (O48), and past it whatever operation the event selects completes (O40). -/
theorem onlyBadConfigurationStopsAStep : Obligations.OnlyBadConfigurationStopsAStep := by
  intro s
  rw [← configurationCheckIsR8 s.cfg]
  refine ⟨fun hc => ?_, fun hc => by rw [step, if_neg hc]⟩
  rw [step_valid hc]
  rcases takeNext s with ⟨_ | i, u⟩
  · exact ⟨u, rfl⟩
  · exact everyOperationCompletes i u

/-! ### The events -/

/-- A delivery takes the oldest packet from the link, if there is one (R36 (a)). -/
theorem deliverNext_link (s : State) : (deliverNext s).2.link = s.link.tail := by
  cases hl : s.link with
  | nil => rw [deliverNext_nil hl, hl, List.tail_nil]
  | cons p ps => rw [deliverNext_cons hl, State.setLink_link, List.tail_cons]

/-- Any other event puts on the link the packets it asks the host for, and takes none. -/
theorem takeEvent_link {e : Event} (he : e ≠ .deliver) (s : State) :
    (takeEvent e s).2.link = s.link ++ (eventResult s.cfg.nGenerators s.control e).2 := by
  cases e with
  | deliver => exact absurd rfl he
  | midi _ | hostStart _ _ | hostSet _ _ => rfl
  | reset | tick | cmd _ => exact (List.append_nil _).symm

/-- Settles O59: no operation writes the host or sends; what an event does to the host and the link is a function of the
configuration, the host and the link. -/
theorem nothingFlowsBack : Obligations.NothingFlowsBack := by
  refine ⟨fun i s t ht => ?_, fun e s s' hcfg hcontrol hlink => ⟨?_, ?_⟩⟩
  · obtain ⟨u, hu, hhost⟩ := exec_completes_host i s
    cases hu.symm.trans ht
    exact hhost
  · rw [(takeEvent_host e s).1, (takeEvent_host e s').1, hcfg, hcontrol]
  · by_cases he : e = .deliver
    · subst he
      rw [takeEvent, takeEvent, deliverNext_link, deliverNext_link, hlink]
    · rw [takeEvent_link he, takeEvent_link he, hcfg, hcontrol, hlink]

end Sys2Proof.Machine
end

section
/-! O5: the packets of the spec's test vectors (spec/95_test_vectors.md section 2.2). -/

namespace Sys2Proof

/-- Settles O5: each packet has the tag, the length and the slot of its row of R51, and the bytes of its fields evaluate to the
table's values. -/
theorem specPacketsDecode : Obligations.SpecPacketsDecode := by
  refine ⟨?global, ?lastSlot, ?slot16, ?slot256, ?trailing, ?setResetFlag⟩
  case global => exact decode_of_tagGlobal _ rfl (by decide)
  case slot16 | slot256 => exact decode_of_discard (classify_badSlot rfl (by decide) (by decide))
  case lastSlot | trailing | setResetFlag => exact decode_of_tagGenerator _ rfl (by decide) (by decide)

end Sys2Proof
end

section
/-! O11: the state RESET leaves (spec/70_reset_and_hazards.md R134). -/

namespace Sys2Proof.Machine

open Sys2Proof

/-- Settles O11: `resetBlock` writes R27's zeros to the block, empties the link and touches nothing else. -/
theorem resetClearsTheBlock : Obligations.ResetClearsTheBlock := exec_reset

end Sys2Proof.Machine
end

section
/-! O47: silence (spec/70_reset_and_hazards.md R135). A step emits nothing or the sample a `TICK` computes from the state before it;
that sample is 0 at a master volume of 0, and where every voice is disabled with nothing latched. -/

namespace Sys2Proof.Machine

open Sys2Proof

variable {s t : State} {c : Cfg} {g : GlobalState} {v : Voice}

/-! ### The sample of a silent block -/

theorem wrapS_zero (n : Nat) : wrapS n 0 = 0 := by
  have hpos : (0 : Int) < (2 ^ (n - 1) : Nat) := Int.natCast_pos.2 (Nat.two_pow_pos _)
  rw [wrapS, Int.zero_emod, if_pos hpos]

/-- A release from level 0 stays at level 0 (R101). -/
theorem releaseLevel_of_latched_zero (t : Nat) (e : Envelope) : releaseLevel t 0 e = 0 :=
  Nat.le_zero.1 (releaseLevel_le t 0 e)

/-- At level 0 the sample is 0, whatever the waveform (R108). -/
theorem voiceSample_level_zero (c : Cfg) (x : Int) (vel : Nat) : voiceSample c x 0 vel = 0 := by
  rw [voiceSample, Int.natCast_zero, Int.mul_zero, tdiv_zero, Int.zero_mul, tdiv_zero]

theorem sampleOf_silent (hoff : isEnabled v.assign = false) (hlatched : v.latched = 0) : sampleOf c g v = 0 := by
  rw [sampleOf, hoff, hlatched, envLevel_disabled, releaseLevel_of_latched_zero, voiceSample_level_zero]

/-- A master volume of 0 mutes every voice (R111). -/
theorem tickOut_of_volume_zero (hvol : s.g.masterVolume = 0) : tickOut s = 0 := by
  have hout (acc : Int) : mixOut s.cfg 0 acc = 0 := by simp [mixOut]
  rw [tickOut, hvol, hout, wrapS_zero]

theorem tickOut_of_quiet (hq : s.Quiet) : tickOut s = 0 := by
  have hzero : ∀ x ∈ s.v.map (sampleOf s.cfg s.g), x = 0 := fun x hx => by
    obtain ⟨v, hv, rfl⟩ := List.mem_map.1 hx
    obtain ⟨hoff, hlatched⟩ := hq v hv
    exact sampleOf_silent hoff hlatched
  rw [tickOut, List.sum_eq_zero hzero, mixOut, Int.zero_mul, Int.zero_mul, wrapS_zero]

/-! ### What a step emits -/

@[simp] theorem modifyVoice_emitted (i : Slot) (f : Voice → Voice) : (s.modifyVoice i f).emitted = s.emitted := by
  rcases modifyVoice_cases (s := s) (i := i) f with he | ⟨v, -, he⟩ <;> rw [he]
  exact State.setV_emitted _ _

/-- Of the operations an event selects, only TICK emits (R112). -/
theorem exec_selected_emitted {i : Instr} (hi : selectedByEvent i = true) (ht : exec i s = .next t) :
    t.emitted = s.emitted ∨ t.emitted = s.emitted ++ [tickOut s] := by
  cases i with
  | reset | pktGlobal _ | pktIgnored =>
    cases ht
    exact .inl rfl
  | pktGenerator j rf a =>
    cases ht
    exact .inl (modifyVoice_emitted j _)
  | tick =>
    rw [exec_tick] at ht
    cases ht
    exact .inr rfl
  | _ => cases hi

/-- The sample depends on the configuration, `G` and the voices alone. -/
theorem tickOut_congr (hcfg : t.cfg = s.cfg) (hg : t.g = s.g) (hv : t.v = s.v) : tickOut t = tickOut s := by
  rw [tickOut, hcfg, hg, hv, tickOut]

/-- All a step can emit: nothing, or the sample of a `TICK` in the state it starts from. -/
theorem step_emitted (ht : step s = .next t) : t.emitted = s.emitted ∨ t.emitted = s.emitted ++ [tickOut s] := by
  rw [step_valid (step_next_valid ht)] at ht
  rcases takeNext_cases s with ⟨i, u, htake, hi, hcfg, hg, hv, -, -, hemitted⟩ | ⟨u, htake, -, -, -, -, hemitted⟩ <;>
    rw [htake] at ht
  · rw [← tickOut_congr hcfg hg hv, ← hemitted]
    exact exec_selected_emitted hi ht
  · cases ht
    exact .inl hemitted

/-! ### What keeps a block quiet -/

/-- A `TICK` enables no voice and latches nothing for a disabled one (R105). -/
theorem State.Quiet.tick (hq : s.Quiet) : ∀ w ∈ s.v.map (afterTick c g), isEnabled w.assign = false ∧ w.latched = 0 := by
  intro w hw
  obtain ⟨v, hv, rfl⟩ := List.mem_map.1 hw
  obtain ⟨hoff, hlatched⟩ := hq v hv
  exact ⟨hoff, by rw [afterTick, hoff]; exact hlatched⟩

/-- A packet with a clear enabled flag keeps the addressed slot's latched level, which is 0 (R74). -/
theorem State.Quiet.assignVoice (hq : s.Quiet) (i : Slot) (rf : Byte) {a : Assignment} (ha : a.enabled = 0) :
    (s.modifyVoice i (assignVoice rf a)).Quiet := by
  rcases modifyVoice_cases (s := s) (i := i) (Machine.assignVoice rf a) with he | ⟨v, hi, he⟩ <;> rw [he]
  · exact hq
  · intro w hw
    rcases List.mem_or_eq_of_mem_set hw with hw | rfl
    · exact hq w hw
    · obtain ⟨-, hlatched⟩ := hq v (List.mem_of_getElem? (voice?_some hi).2)
      rw [assignVoice_eq]
      exact ⟨(isEnabled_eq_false a).2 ha, hlatched⟩

theorem resetBlock_quiet (s : State) : (resetBlock s).Quiet := fun _ hv =>
  List.eq_of_mem_replicate hv ▸ ⟨rfl, rfl⟩

/-- An operation an event selects keeps the block quiet, unless it is a packet that enables a voice. -/
theorem exec_selected_quiet {i : Instr} (hq : s.Quiet) (hi : selectedByEvent i = true)
    (hpkt : ∀ j rf a, i = .pktGenerator j rf a → a.enabled = 0) (ht : exec i s = .next t) : t.Quiet := by
  cases i with
  | reset =>
    cases ht
    exact resetBlock_quiet s
  | tick =>
    rw [exec_tick] at ht
    cases ht
    exact hq.tick
  | pktGlobal _ | pktIgnored =>
    cases ht
    exact hq
  | pktGenerator j rf a =>
    cases ht
    exact hq.assignVoice j rf (hpkt j rf a rfl)
  | _ => cases hi

theorem step_quiet (hq : s.Quiet) (hpkt : ∀ j rf a, (takeNext s).1 = some (.pktGenerator j rf a) → a.enabled = 0)
    (ht : step s = .next t) : t.Quiet := by
  rw [step_valid (step_next_valid ht)] at ht
  rcases takeNext_cases s with ⟨i, u, htake, hi, -, -, hv, -⟩ | ⟨u, htake, -, -, hv, -⟩ <;> rw [htake] at ht
  · have hu : u.Quiet := fun w hw => hq w (hv ▸ hw)
    exact exec_selected_quiet hu hi (fun j rf a h => hpkt j rf a (by rw [htake, h])) ht
  · cases ht
    exact fun w hw => hq w (hv ▸ hw)

/-- Settles O47: what a step can emit is the sample of the state it starts from, which is 0 in a quiet block and at volume 0; and only a
packet that enables a voice ends the quiet. -/
theorem silenceUntilAVoiceIsEnabled : Obligations.SilenceUntilAVoiceIsEnabled := by
  intro s t ht
  have hout := step_emitted ht
  refine ⟨fun hq hpkt => ⟨step_quiet hq hpkt ht, ?_⟩, fun hvol => ?_⟩
  · rwa [tickOut_of_quiet hq] at hout
  · rwa [tickOut_of_volume_zero hvol] at hout

end Sys2Proof.Machine
end
